-- ==== Sys2Proof/Word.lean ====
section
/-! DEFINITION. The plain types of `DDS_engine`: the fixed widths of 00_scope.md R8, the two sequencing
policies of R17 and the two segments of R18. -/

namespace Sys2Proof

/-- A 32-bit host register word; also the phase accumulator, a phase increment, the time counter, the
alarm and the missed-deadline counter (00_scope.md R8). -/
abbrev Word := BitVec 32

/-- The 24-bit sample index `IDX` (00_scope.md R8). -/
abbrev Index := BitVec 24

/-- The 24 bits of `XCNT`, the cycle count of a frame (10_state.md R35). -/
abbrev FrameCount := BitVec 24

/-- A 16-bit DAC word: control nibble [15:12], magnitude [11:0] (00_scope.md R8, 30_encoding.md R81). -/
abbrev DacWord := BitVec 16

/-- A 12-bit table entry: two's complement in `SINE_ROM`, unsigned in `PCM_ROM` (00_scope.md R8). -/
abbrev Sample := BitVec 12

/-- A 16-bit unsigned Q1.15 envelope code (00_scope.md R8, 30_encoding.md R97 (d)). -/
abbrev EnvCode := BitVec 16

/-- The sequencing policy, fixed at elaboration (00_scope.md R17). -/
inductive Policy where
  | segmented
  | concatenated
  deriving DecidableEq, Repr

/-- The active segment (00_scope.md R18). Its one-bit code is `segBit` of Decode.lean. -/
inductive Segment where
  | swoop
  | chirp
  deriving DecidableEq, Repr

end Sys2Proof
end

