-- ==== Sys2Proof/Machine/Range.lean ====
section
/-! DEFINITION. The phase increments that the generators of 40_tables.md R116 to R118 compute from the real
frequencies of 00_scope.md R9, and constraint (h) of R10 over them. For rational frequencies
`rationalInRange` decides the constraint: it is exact (Laws/Range.lean) and evaluates no sine, since a
SWOOP increment lies between the one at the start and the one at the peak of the sweep, and a rational is
compared with the sine of the peak by the signs of Chebyshev polynomials. -/

namespace Sys2Proof.Machine

/-- The OPEN frequency parameters of 00_scope.md R9, real numbers. -/
structure Waveform where
  swoopCenterHz : ℝ
  swoopDevHz    : ℝ
  chirpF0Hz     : ℝ
  chirpA        : ℝ

/-- `round` of 00_scope.md R12 as a relation: `n` is the real `x` rounded half away from zero. -/
def RoundsTo (x : ℝ) (n : ℤ) : Prop :=
  (0 ≤ x → (n : ℝ) ≤ x + 1 / 2 ∧ x + 1 / 2 < n + 1) ∧
  (x < 0 → -(n : ℝ) ≤ -x + 1 / 2 ∧ -x + 1 / 2 < -n + 1)

/-- `f_swoop(i)` (40_tables.md R116). -/
noncomputable def swoopHz (w : Waveform) (len i : Nat) : ℝ :=
  w.swoopCenterHz - w.swoopDevHz * Real.sin (-(Real.pi * i) / len)

/-- `f_chirp(i)` (40_tables.md R117). -/
noncomputable def chirpHz (w : Waveform) (i : Nat) : ℝ := w.chirpA * (i : ℝ) ^ 2 + w.chirpF0Hz

/-- `round(hz * 2^32 / SAMPLE_RATE_HZ)` is `n` (40_tables.md R118); no `n` is meant for a rate of 0
(DESIGN CHOICE, assumption 23). -/
def IncrementIs (rate : Nat) (hz : ℝ) (n : ℤ) : Prop := rate ≠ 0 ∧ RoundsTo (hz * 2 ^ 32 / rate) n

/-- Every increment of the real frequencies `f i` lies in `[0, 2^32 - 1]` (40_tables.md R118). DESIGN
CHOICE (assumption 22): the range is that of the rounded entry. -/
def InRange (f : Nat → ℝ) (rate len : Nat) : Prop :=
  ∀ i n, i < len → IncrementIs rate (f i) n → 0 ≤ n ∧ n ≤ 2 ^ 32 - 1

/-- 00_scope.md R10 (h) for real frequencies. With a rate of 0 the formula of 40_tables.md R118 divides by
zero and computes no increment; generated tables are then refused (DESIGN CHOICE, assumption 23). -/
def Waveform.IncrementsInRange (w : Waveform) (rate swoopLen chirpLen : Nat) : Prop :=
  rate ≠ 0 ∧ InRange (swoopHz w swoopLen) rate swoopLen ∧ InRange (chirpHz w) rate chirpLen

/-- An increment before rounding: a frequency times `2^32 / SAMPLE_RATE_HZ` (40_tables.md R118). -/
def scaledHz (rate : Nat) (hz : ℚ) : ℚ := hz * 2 ^ 32 / rate

/-- The rounded value lies in `[0, 2^32 - 1]`: `round` rounds half away from zero (00_scope.md R12), so the
value itself lies strictly between -1/2 and 2^32 - 1/2. DESIGN CHOICE (assumption 22): a negative value
above -1/2 rounds to 0 and is in range. -/
def roundsInRange (x : ℚ) : Bool := decide (-1 / 2 < x) && decide (x < 2 ^ 32 - 1 / 2)

/-- The next `n` Chebyshev polynomials at `r` are positive, from `t1` on, with `t0` the one before. -/
def chebyshevPositive (r : ℚ) : Nat → ℚ → ℚ → Bool
  | 0, _, _ => true
  | n + 1, t0, t1 => decide (0 < t1) && chebyshevPositive r n t1 (2 * r * t1 - t0)

/-- The peak of `sin (pi * i / len)` over `i < len` lies below the positive rational `r`: the peak is 1 for
an even length, and `cos (pi / (2 * len))`, the largest root of the Chebyshev polynomial of degree `len`,
for an odd one. -/
def peakBelow (len : Nat) (r : ℚ) : Bool :=
  if len % 2 = 0 then decide (1 < r) else decide (1 ≤ r) || chebyshevPositive r len 1 r

/-- Every SWOOP increment of rational frequencies rounds into range (40_tables.md R116, R118). -/
def swoopInRange (rate len : Nat) (center dev : ℚ) : Bool :=
  let u := scaledHz rate center
  let v := scaledHz rate dev
  len == 0 || roundsInRange u &&
    (if 0 < v then peakBelow len ((2 ^ 32 - 1 / 2 - u) / v)
     else if v < 0 then peakBelow len ((u + 1 / 2) / -v)
     else true)

/-- Every CHIRP increment of rational coefficients rounds into range (40_tables.md R117, R118). -/
def chirpInRange (rate len : Nat) (a f0 : ℚ) : Bool :=
  (List.range len).all fun i => roundsInRange (scaledHz rate (a * (i : ℚ) ^ 2 + f0))

/-- 00_scope.md R10 (h) for rational frequencies, decided. -/
def rationalInRange (rate swoopLen chirpLen : Nat) (center dev f0 a : ℚ) : Bool :=
  rate != 0 && swoopInRange rate swoopLen center dev && chirpInRange rate chirpLen a f0

end Sys2Proof.Machine
end

