-- ==== Sys2Proof/Config.lean ====
section
/-! DEFINITION. What is fixed when the block is built: the parameters of 00_scope.md R9, the read-only
memory images of 10_state.md R40 and 40_tables.md R127, the derived quantities of 00_scope.md R13, and
the constraints of 00_scope.md R10. A configuration that breaks a constraint cannot be built
(`Config.build` names the broken constraint), so no state of the machine holds one
(00_scope.md R7, 60_exceptions.md R301). -/

namespace Sys2Proof

/-- The read-only memories of the segmented policy (10_state.md R40), as constant lists
(20_memory.md R63). -/
structure SegmentTables where
  sine     : List Sample
  incSwoop : List Word
  incChirp : List Word
  envSwoop : List EnvCode
  envChirp : List EnvCode
  deriving DecidableEq, Repr

/-- The increment memory of a segment (42_sequencer.md R163). -/
def SegmentTables.inc (t : SegmentTables) : Segment → List Word
  | .swoop => t.incSwoop
  | .chirp => t.incChirp

/-- The envelope memory of a segment (42_sequencer.md R163). -/
def SegmentTables.env (t : SegmentTables) : Segment → List EnvCode
  | .swoop => t.envSwoop
  | .chirp => t.envChirp

/-- The images a configuration holds: the five tables of the segmented policy, or the one buffer of the
concatenated policy (40_tables.md R127). A memory of the other policy does not exist (10_state.md R40). -/
inductive Images where
  | segmented (tables : SegmentTables)
  | concatenated (pcm : List Sample)
  deriving DecidableEq, Repr

/-- Where the phase increments come from: supplied images, or the generators of 40_tables.md R116 to R118
(00_scope.md R10 (h), 40_tables.md R127). -/
inductive IncrementSource where
  | supplied
  | generated
  deriving DecidableEq, Repr

/-- The part of the configuration record that the built block holds: the parameters of 00_scope.md R9 but
for the four frequencies, with the memory images. `POLICY` is the choice of images (`Params.policy`).
`SINE_AMP` and `DAC_OFFSET` are fixed. -/
structure Params where
  sampleRateHz : Nat
  periodUs     : Nat
  restUs       : Nat
  sineBits     : Nat
  ctrlNibble   : BitVec 4
  swoopLen     : Nat
  chirpLen     : Nat
  rampLen      : Nat
  restLen      : Nat
  clkPerUs     : Nat
  sclkHalf     : Nat
  images       : Images
  deriving DecidableEq, Repr

/-- The one configuration record of 00_scope.md R7: every parameter of R9, the four frequencies as real
numbers (93_implementation_defined.md I3), the memory images, and whether the increments are generated.
Only the generators read the frequencies, before the block is built (40_tables.md R110), so State holds
the part without them (`Params`, assumption 4). -/
structure ConfigRecord extends Params, Machine.Waveform where
  increments : IncrementSource

/-- `SINE_AMP` (00_scope.md R9, fixed). -/
def sineAmp : Nat := 2047

/-- `DAC_OFFSET` (00_scope.md R9, fixed). -/
def dacOffset : Nat := 2048

namespace Params

/-- `POLICY` (00_scope.md R9). -/
def policy (p : Params) : Policy :=
  match p.images with
  | .segmented _ => .segmented
  | .concatenated _ => .concatenated

/-- `SINE_SIZE` (00_scope.md R13). -/
def sineSize (p : Params) : Nat := 2 ^ p.sineBits

/-- `SHIFT` (00_scope.md R13). -/
def shift (p : Params) : Nat := 32 - p.sineBits

/-- `SONG_LEN` (00_scope.md R13). -/
def songLen (p : Params) : Nat := p.swoopLen + p.restLen + p.chirpLen

/-- `XFER_CYCLES` (00_scope.md R13, 43_output.md R194). -/
def xferCycles (p : Params) : Nat := 33 * p.sclkHalf

/-- The sample count of a segment. -/
def segmentLen (p : Params) : Segment → Nat
  | .swoop => p.swoopLen
  | .chirp => p.chirpLen

/-- `LEN(s)`, the bound of the active region, as a function of `SEG` (00_scope.md R13). -/
def regionLen (p : Params) (seg : Segment) : Nat :=
  match p.policy with
  | .segmented => p.segmentLen seg
  | .concatenated => p.songLen

end Params

/-- The constraints of 00_scope.md R10, one name each, (a) to (h). -/
inductive Constraint where
  /-- (a) `PERIOD_US >= 1` and `PERIOD_US + REST_US <= 2^32 - 1`. -/
  | periodRange
  /-- (b) `CLK_PER_US >= 2`. -/
  | clockPerMicrosecond
  /-- (c) `SCLK_HALF >= 1` and `CLK_PER_US <= 40 * SCLK_HALF`. -/
  | serialClock
  /-- (d) `2 <= SINE_BITS <= 16`. -/
  | sineBits
  /-- (e) `RAMP_LEN >= 1` and both segment lengths at least `2 * RAMP_LEN`. -/
  | rampLength
  /-- (f) the lengths that `IDX` must hold are at most `2^24 - 1`. -/
  | regionLength
  /-- (g) every image has the length 40_tables.md gives it (every entry fits by its type). -/
  | imageLength
  /-- (h) a generated phase increment lies outside `[0, 2^32 - 1]` (40_tables.md R118). -/
  | incrementRange
  deriving DecidableEq, Repr

/-- 00_scope.md R10 (f) for the configured policy. -/
def Params.regionsFit (p : Params) : Bool :=
  match p.policy with
  | .segmented => decide (p.swoopLen ≤ 2 ^ 24 - 1) && decide (p.chirpLen ≤ 2 ^ 24 - 1)
  | .concatenated => decide (p.songLen ≤ 2 ^ 24 - 1)

/-- 00_scope.md R10 (g): the lengths of 10_state.md R40 for the memories that exist. -/
def Params.imagesFit (p : Params) : Bool :=
  match p.images with
  | .segmented t =>
    decide (t.sine.length = p.sineSize) && decide (t.incSwoop.length = p.swoopLen) &&
      decide (t.incChirp.length = p.chirpLen) && decide (t.envSwoop.length = p.swoopLen) &&
      decide (t.envChirp.length = p.chirpLen)
  | .concatenated pcm => decide (pcm.length = p.songLen)

/-- The first of the constraints (a) to (g) of 00_scope.md R10 that the parameters and images break, if
any. -/
def Params.broken (p : Params) : Option Constraint :=
  if ¬(1 ≤ p.periodUs ∧ p.periodUs + p.restUs ≤ 2 ^ 32 - 1) then some .periodRange
  else if ¬(2 ≤ p.clkPerUs) then some .clockPerMicrosecond
  else if ¬(1 ≤ p.sclkHalf ∧ p.clkPerUs ≤ 40 * p.sclkHalf) then some .serialClock
  else if ¬(2 ≤ p.sineBits ∧ p.sineBits ≤ 16) then some .sineBits
  else if ¬(1 ≤ p.rampLen ∧ 2 * p.rampLen ≤ p.swoopLen ∧ 2 * p.rampLen ≤ p.chirpLen) then
    some .rampLength
  else if p.regionsFit = false then some .regionLength
  else if p.imagesFit = false then some .imageLength
  else none

/-- 00_scope.md R10 (h): where the increments are generated, every one lies in range (40_tables.md R118). -/
def ConfigRecord.IncrementsFit (r : ConfigRecord) : Prop :=
  r.increments = .generated → r.toWaveform.IncrementsInRange r.sampleRateHz r.swoopLen r.chirpLen

/-- The first constraint of 00_scope.md R10, (a) to (h), that a configuration record breaks, if any. (h) is
about real numbers, so its decision is an argument; Laws/Range.lean has the one for rational frequencies. -/
def ConfigRecord.broken (r : ConfigRecord) [Decidable r.IncrementsFit] : Option Constraint :=
  match r.toParams.broken with
  | some c => some c
  | none => if r.IncrementsFit then none else some .incrementRange

theorem ConfigRecord.params_admitted {r : ConfigRecord} [Decidable r.IncrementsFit]
    (h : r.broken = none) : r.toParams.broken = none := by
  unfold ConfigRecord.broken at h
  split at h
  · cases h
  · assumption

/-- What the built block holds of its configuration: parameters and images that break no constraint
(00_scope.md R7, R10). The proof field makes a refused one impossible to write down. -/
structure Config extends Params where
  admitted : toParams.broken = none
  deriving DecidableEq, Repr

/-- Building a block from a configuration record: it is accepted, or refused under the name of the broken
constraint (00_scope.md R7, 60_exceptions.md R301). -/
def Config.build (r : ConfigRecord) [Decidable r.IncrementsFit] : Except Constraint Config :=
  match h : r.broken with
  | none => .ok ⟨r.toParams, ConfigRecord.params_admitted h⟩
  | some c => .error c

end Sys2Proof
end

