-- ==== Sys2Proof/Syntax.lean ====
section
/-! DEFINITION. The operations the block performs, one constructor per row of spec/opcode_table.json
(00_scope.md R2: five tick operations, sixteen host read commands, six host write commands), the three
raw encodings they are read from (30_encoding.md R80), and the host port's input vector (30_encoding.md R102). -/

namespace Sys2Proof

/-- An operation of the block. A field that the row's mask ignores is kept as an operand, so that no bit
of an encoding is lost: the `S` bit of a tick selector (30_encoding.md R85), the address of a host
command whose row covers several addresses, and `host_wdata` (30_encoding.md R87 to R89). -/
inductive Instr where
  /-- `SEG_EMIT` (42_sequencer.md R163); `s` is the selector's `S` bit. -/
  | segEmit (s : Segment)
  /-- `SEG_FLIP_S2C` (42_sequencer.md R164). -/
  | segFlipS2C
  /-- `SEG_FLIP_C2S_REST` (42_sequencer.md R165). -/
  | segFlipC2SRest
  /-- `CAT_EMIT` (42_sequencer.md R166); `s` is the selector's `S` bit. -/
  | catEmit (s : Segment)
  /-- `CAT_WRAP_REST` (42_sequencer.md R167); `s` is the selector's `S` bit. -/
  | catWrapRest (s : Segment)
  /-- `RD_CTRL` (45_host.md R251). -/
  | rdCtrl
  /-- `RD_STATUS` (45_host.md R252). -/
  | rdStatus
  /-- `RD_PHASE` (45_host.md R253). -/
  | rdPhase
  /-- `RD_INDEX` (45_host.md R254). -/
  | rdIndex
  /-- `RD_TIME` (45_host.md R255). -/
  | rdTime
  /-- `RD_ALARM` (45_host.md R256). -/
  | rdAlarm
  /-- `RD_MISSED` (45_host.md R257). -/
  | rdMissed
  /-- `RD_LAST_WORD` (45_host.md R258). -/
  | rdLastWord
  /-- `RD_CFG0` (45_host.md R259). -/
  | rdCfg0
  /-- `RD_CFG_LEN_A` (45_host.md R260). -/
  | rdCfgLenA
  /-- `RD_CFG_LEN_B` (45_host.md R261). -/
  | rdCfgLenB
  /-- `RD_CFG_PERIOD` (45_host.md R262). -/
  | rdCfgPeriod
  /-- `RD_CFG_REST` (45_host.md R263). -/
  | rdCfgRest
  /-- `RD_RSVD_D` (45_host.md R264). -/
  | rdRsvdD
  /-- `RD_RSVD_EF` (45_host.md R264); `a` is 0xE or 0xF. -/
  | rdRsvdEF (a : BitVec 4)
  /-- `RD_NONE` (45_host.md R267); `a` is the ignored `host_addr`. -/
  | rdNone (a : BitVec 4)
  /-- `WR_CTRL` (45_host.md R265); `d` is `host_wdata`. -/
  | wrCtrl (d : Word)
  /-- `WR_IGN_1` (45_host.md R266). -/
  | wrIgn1 (d : Word)
  /-- `WR_IGN_2_3` (45_host.md R266); `a` is 0x2 or 0x3. -/
  | wrIgn23 (a : BitVec 4) (d : Word)
  /-- `WR_IGN_4_7` (45_host.md R266); `a` is 0x4 to 0x7. -/
  | wrIgn47 (a : BitVec 4) (d : Word)
  /-- `WR_IGN_8_F` (45_host.md R266); `a` is 0x8 to 0xF. -/
  | wrIgn8F (a : BitVec 4) (d : Word)
  /-- `WR_NONE` (45_host.md R267); `a` and `d` are the ignored `host_addr` and `host_wdata`. -/
  | wrNone (a : BitVec 4) (d : Word)
  deriving DecidableEq, Repr

/-- A word of one of the three command encodings (30_encoding.md R80 (b) to (d)). Which encoding a word
belongs to is given by where it arises (the sequencer, the read side or the write side of the host
port), not by a bit of it: the three spaces overlap. -/
inductive RawWord where
  | ticksel (bits : BitVec 3)
  | hostRd (bits : BitVec 5)
  | hostWr (bits : BitVec 5) (wdata : Word)
  deriving DecidableEq, Repr

/-- The inputs sampled at one rising edge (10_state.md R22, 30_encoding.md R102). -/
structure HostInput where
  rst   : Bool
  we    : Bool
  re    : Bool
  addr  : BitVec 4
  wdata : Word
  deriving DecidableEq, Repr

/-- The script command `nop`: no reset, no read, no write (30_encoding.md R100). -/
def HostInput.nop : HostInput := ⟨false, false, false, 0, 0⟩

end Sys2Proof
end

