-- ==== Sys2Proof/WellFormed.lean ====
section
/-! DEFINITION. Well-formed operations: a host command whose row covers several addresses holds one of
them (30_encoding.md R87, R88), and a read and a write of one cycle share the port's one address
(45_host.md R268). The checks on configurations are `Params.broken` of Config.lean. -/

namespace Sys2Proof

/-- An operation's operands lie in the range its row admits. -/
def Instr.wf : Instr → Bool
  | .rdRsvdEF a => decide (0xE ≤ a.toNat)
  | .wrIgn23 a _ => decide (2 ≤ a.toNat ∧ a.toNat ≤ 3)
  | .wrIgn47 a _ => decide (4 ≤ a.toNat ∧ a.toNat ≤ 7)
  | .wrIgn8F a _ => decide (8 ≤ a.toNat)
  | .segEmit _ | .segFlipS2C | .segFlipC2SRest | .catEmit _ | .catWrapRest _ => true
  | .rdCtrl | .rdStatus | .rdPhase | .rdIndex | .rdTime | .rdAlarm | .rdMissed | .rdLastWord => true
  | .rdCfg0 | .rdCfgLenA | .rdCfgLenB | .rdCfgPeriod | .rdCfgRest | .rdRsvdD | .rdNone _ => true
  | .wrCtrl _ | .wrIgn1 _ | .wrNone _ _ => true

/-- The `host_addr` of a read command; `none` for any other operation. -/
def Instr.readAddr : Instr → Option (BitVec 4)
  | .rdCtrl => some 0x0
  | .rdStatus => some 0x1
  | .rdPhase => some 0x2
  | .rdIndex => some 0x3
  | .rdTime => some 0x4
  | .rdAlarm => some 0x5
  | .rdMissed => some 0x6
  | .rdLastWord => some 0x7
  | .rdCfg0 => some 0x8
  | .rdCfgLenA => some 0x9
  | .rdCfgLenB => some 0xA
  | .rdCfgPeriod => some 0xB
  | .rdCfgRest => some 0xC
  | .rdRsvdD => some 0xD
  | .rdRsvdEF a | .rdNone a => some a
  | .segEmit _ | .segFlipS2C | .segFlipC2SRest | .catEmit _ | .catWrapRest _ => none
  | .wrCtrl _ | .wrIgn1 _ | .wrIgn23 _ _ | .wrIgn47 _ _ | .wrIgn8F _ _ | .wrNone _ _ => none

/-- The `host_addr` of a write command; `none` for any other operation. -/
def Instr.writeAddr : Instr → Option (BitVec 4)
  | .wrCtrl _ => some 0x0
  | .wrIgn1 _ => some 0x1
  | .wrIgn23 a _ | .wrIgn47 a _ | .wrIgn8F a _ | .wrNone a _ => some a
  | .segEmit _ | .segFlipS2C | .segFlipC2SRest | .catEmit _ | .catWrapRest _ => none
  | .rdCtrl | .rdStatus | .rdPhase | .rdIndex | .rdTime | .rdAlarm | .rdMissed | .rdLastWord => none
  | .rdCfg0 | .rdCfgLenA | .rdCfgLenB | .rdCfgPeriod | .rdCfgRest | .rdRsvdD => none
  | .rdRsvdEF _ | .rdNone _ => none

/-- A pair of commands one cycle can carry: a well-formed read and a well-formed write with one address
(45_host.md R268). -/
def cycleWf (rd wr : Instr) : Bool :=
  rd.wf && wr.wf && rd.readAddr.isSome && (rd.readAddr == wr.writeAddr)

end Sys2Proof
end

