-- ==== Sys2Proof/Decode.lean ====
section
/-! DEFINITION. Reading and writing the encodings of 30_encoding.md: the tick selector (R84 to R86), the
host read and write commands (R87 to R89) and the input vector (R102). Every word decodes: the block has
no illegal encoding (R98). What is refused is a word that has bits its format does not have
(`decodeTableWord`). -/

namespace Sys2Proof

/-- `POLICY` as a bit: 0 `SEGMENTED`, 1 `CONCATENATED` (00_scope.md R9). -/
def policyBit : Policy → Bool
  | .segmented => false
  | .concatenated => true

/-- The policy a bit names (00_scope.md R9). -/
def policyOfBit (b : Bool) : Policy := if b then .concatenated else .segmented

/-- `SEG` as a bit: `SWOOP = 0`, `CHIRP = 1` (00_scope.md R18). -/
def segBit : Segment → Bool
  | .swoop => false
  | .chirp => true

/-- The segment a bit names (00_scope.md R18). -/
def segOfBit (b : Bool) : Segment := if b then .chirp else .swoop

/-- The tick selector `[P, S, E]` as a word: bit 2 `P`, bit 1 `S`, bit 0 `E` (30_encoding.md R84). -/
def tickWord (p s e : Bool) : BitVec 3 :=
  BitVec.ofNat 3 (4 * p.toNat + 2 * s.toNat + e.toNat)

/-- A host command word: bit 4 the enable, bits 3 to 0 the address (30_encoding.md R87, R88). -/
def hostWord (en : Bool) (a : BitVec 4) : BitVec 5 :=
  BitVec.ofNat 5 (16 * en.toNat + a.toNat)

/-- The enable bit of a host command word. -/
def hostEnable (b : BitVec 5) : Bool := b.getLsbD 4

/-- The address field of a host command word. -/
def hostAddr (b : BitVec 5) : BitVec 4 := BitVec.ofNat 4 b.toNat

/-- Decoding a tick selector (30_encoding.md R85, with R86 for the two unreachable values). -/
def decodeTick (b : BitVec 3) : Instr :=
  match b.getLsbD 2, b.getLsbD 1, b.getLsbD 0 with
  | false, s, false => .segEmit (segOfBit s)
  | false, false, true => .segFlipS2C
  | false, true, true => .segFlipC2SRest
  | true, s, false => .catEmit (segOfBit s)
  | true, s, true => .catWrapRest (segOfBit s)

/-- Decoding a host read command (30_encoding.md R87, R89). -/
def decodeRd (b : BitVec 5) : Instr :=
  if hostEnable b then
    match (hostAddr b).toNat with
    | 0x0 => .rdCtrl
    | 0x1 => .rdStatus
    | 0x2 => .rdPhase
    | 0x3 => .rdIndex
    | 0x4 => .rdTime
    | 0x5 => .rdAlarm
    | 0x6 => .rdMissed
    | 0x7 => .rdLastWord
    | 0x8 => .rdCfg0
    | 0x9 => .rdCfgLenA
    | 0xA => .rdCfgLenB
    | 0xB => .rdCfgPeriod
    | 0xC => .rdCfgRest
    | 0xD => .rdRsvdD
    | _ => .rdRsvdEF (hostAddr b)
  else .rdNone (hostAddr b)

/-- Decoding a host write command with its data operand (30_encoding.md R88, R89). -/
def decodeWr (b : BitVec 5) (d : Word) : Instr :=
  if hostEnable b then
    match (hostAddr b).toNat with
    | 0x0 => .wrCtrl d
    | 0x1 => .wrIgn1 d
    | 0x2 | 0x3 => .wrIgn23 (hostAddr b) d
    | 0x4 | 0x5 | 0x6 | 0x7 => .wrIgn47 (hostAddr b) d
    | _ => .wrIgn8F (hostAddr b) d
  else .wrNone (hostAddr b) d

/-- Decoding a word of any of the three encodings. -/
def decode : RawWord → Instr
  | .ticksel b => decodeTick b
  | .hostRd b => decodeRd b
  | .hostWr b d => decodeWr b d

/-- The word of an operation, from the `match` column of 30_encoding.md R85, R87, R88 and the operand
bits its row ignores. -/
def encode : Instr → RawWord
  | .segEmit s => .ticksel (tickWord false (segBit s) false)
  | .segFlipS2C => .ticksel 0b001
  | .segFlipC2SRest => .ticksel 0b011
  | .catEmit s => .ticksel (tickWord true (segBit s) false)
  | .catWrapRest s => .ticksel (tickWord true (segBit s) true)
  | .rdCtrl => .hostRd 0x10
  | .rdStatus => .hostRd 0x11
  | .rdPhase => .hostRd 0x12
  | .rdIndex => .hostRd 0x13
  | .rdTime => .hostRd 0x14
  | .rdAlarm => .hostRd 0x15
  | .rdMissed => .hostRd 0x16
  | .rdLastWord => .hostRd 0x17
  | .rdCfg0 => .hostRd 0x18
  | .rdCfgLenA => .hostRd 0x19
  | .rdCfgLenB => .hostRd 0x1A
  | .rdCfgPeriod => .hostRd 0x1B
  | .rdCfgRest => .hostRd 0x1C
  | .rdRsvdD => .hostRd 0x1D
  | .rdRsvdEF a => .hostRd (hostWord true a)
  | .rdNone a => .hostRd (hostWord false a)
  | .wrCtrl d => .hostWr 0x10 d
  | .wrIgn1 d => .hostWr 0x11 d
  | .wrIgn23 a d => .hostWr (hostWord true a) d
  | .wrIgn47 a d => .hostWr (hostWord true a) d
  | .wrIgn8F a d => .hostWr (hostWord true a) d
  | .wrNone a d => .hostWr (hostWord false a) d

/-- The `HOST_RD` word of a cycle, `[host_re, host_addr]` (30_encoding.md R102). -/
def HostInput.rdWord (i : HostInput) : BitVec 5 := hostWord i.re i.addr

/-- The `HOST_WR` word of a cycle, `[host_we, host_addr]` (30_encoding.md R102). -/
def HostInput.wrWord (i : HostInput) : BitVec 5 := hostWord i.we i.addr

/-- The read command a cycle carries (30_encoding.md R87, R89). -/
def HostInput.readCommand (i : HostInput) : Instr := decodeRd i.rdWord

/-- The write command a cycle carries (30_encoding.md R88, R89). -/
def HostInput.writeCommand (i : HostInput) : Instr := decodeWr i.wrWord i.wdata

/-- The 39-bit input vector of a cycle: bit 38 `rst`, bit 37 `host_we`, bit 36 `host_re`, bits 35 to 32
`host_addr`, bits 31 to 0 `host_wdata` (30_encoding.md R102, 95_test_vectors.md section 0). -/
def HostInput.toVector (i : HostInput) : BitVec 39 :=
  BitVec.ofNat 39
    (i.rst.toNat * 2 ^ 38 + i.we.toNat * 2 ^ 37 + i.re.toNat * 2 ^ 36 + i.addr.toNat * 2 ^ 32
      + i.wdata.toNat)

/-- The inputs an input vector stands for (30_encoding.md R102). -/
def HostInput.ofVector (v : BitVec 39) : HostInput where
  rst := v.getLsbD 38
  we := v.getLsbD 37
  re := v.getLsbD 36
  addr := BitVec.ofNat 4 (v.toNat / 2 ^ 32)
  wdata := BitVec.ofNat 32 v.toNat

/-- The encoding that a word of the opcode table stands in. The table gives a row 3 bits (`TICKSEL`) or 5
bits (`HOST_RD`, `HOST_WR`), one byte either way, and the three spaces overlap, so one byte cannot say
which row is meant. DESIGN CHOICE (assumption 9): a one-byte word below 8 is read as a tick selector and
one from 8 to 31 as a host read command; a word given more than one byte is a host write command, with
`host_wdata` in the bits from 5 up. -/
def tableRawWord (nbits w : Nat) : Option RawWord :=
  if nbits ≤ 8 then
    if w < 8 then some (.ticksel (BitVec.ofNat 3 w))
    else if w < 32 then some (.hostRd (BitVec.ofNat 5 w))
    else none
  else if w < 2 ^ 37 then some (.hostWr (BitVec.ofNat 5 w) (BitVec.ofNat 32 (w / 32)))
  else none

/-- The operation the decoder reads from a word of the opcode table. -/
def decodeTableWord (nbits w : Nat) : Option Instr := (tableRawWord nbits w).map decode

end Sys2Proof
end

