-- ==== Sys2Proof/Machine/Datapath.lean ====
section
/-! DEFINITION. The combinational datapath functions of 41_phase_sine.md and 43_output.md R190, as
functions of values alone: phase addition, sine index, sample extension, magnitude, DAC word. The tick
operations and the table generators both use them. -/

namespace Sys2Proof.Machine

/-- `phase_add`: the sum modulo 2^32, its carry discarded (41_phase_sine.md R140). -/
def phaseAdd (p inc : Word) : Word := p + inc

/-- `sine_index`: the top `SINE_BITS` bits of the updated phase (41_phase_sine.md R141). -/
def sineIndex (shift : Nat) (ph : Word) : Nat := ph.toNat >>> shift

/-- `sext_12` of a `SINE_ROM` entry (30_encoding.md R97 (b), 41_phase_sine.md R142). -/
def rawSample (v : Sample) : Int := v.toInt

/-- `mag`: the offset is added first, then the product with the Q1.15 code is formed, rounded with ties
upward, and masked to 12 bits (41_phase_sine.md R143 to R145). -/
def mag (raw : Int) (e : EnvCode) : Nat :=
  (((raw + dacOffset).toNat * e.toNat + 2 ^ 14) >>> 15) &&& 0xFFF

/-- `dac_word`: the control nibble above the low 12 bits of the magnitude (43_output.md R190,
30_encoding.md R83). -/
def dacWord (nibble : BitVec 4) (m : Nat) : DacWord :=
  BitVec.ofNat 16 ((nibble.toNat <<< 12) ||| (m &&& 0xFFF))

end Sys2Proof.Machine
end

