-- ==== Sys2Proof/Machine/Tables.lean ====
section
/-! DEFINITION. The table generators of 40_tables.md: what each read-only memory holds when it is generated.
Envelopes, the concatenated buffer and the default sine table are computed. The entries defined by a
real sine or a real frequency are stated as relations over the reals (`IsSineTable`, `SwoopGenerates`,
`ChirpGenerates`), since the block holds the image and not the formula (40_tables.md R118); for rational
frequencies `genIncrement` and `genChirp` compute the same entries. Out-of-range increments are refused
under `incrementRange` here, and by `ConfigRecord.broken` when a block is built. No running operation uses
this file (00_scope.md R6 (f)). -/

namespace Sys2Proof.Machine

/-- The list `f i, f (i + 1), …` of `n` entries. -/
def tabulate {α : Type} (f : Nat → α) : Nat → Nat → List α
  | _, 0 => []
  | i, n + 1 => f i :: tabulate f (i + 1) n

/-- `round` of 00_scope.md R12 on a rational. -/
def roundHalfAway (x : ℚ) : ℤ :=
  if 0 ≤ x then ⌊x + 1 / 2⌋ else -⌊-x + 1 / 2⌋

/-- `SINE_ROM` entries 0 to 63 (40_tables.md R113). -/
def sineQuarter0 : List Int :=
  [0, 50, 100, 151, 201, 251, 300, 350,
   399, 449, 497, 546, 594, 642, 690, 737] ++
  [783, 830, 875, 920, 965, 1009, 1052, 1095,
   1137, 1179, 1219, 1259, 1299, 1337, 1375, 1411] ++
  [1447, 1483, 1517, 1550, 1582, 1614, 1644, 1674,
   1702, 1729, 1756, 1781, 1805, 1828, 1850, 1871] ++
  [1891, 1910, 1927, 1944, 1959, 1973, 1986, 1997,
   2008, 2017, 2025, 2032, 2037, 2041, 2045, 2046]

/-- `SINE_ROM` entries 64 to 127 (40_tables.md R113). -/
def sineQuarter1 : List Int :=
  [2047, 2046, 2045, 2041, 2037, 2032, 2025, 2017,
   2008, 1997, 1986, 1973, 1959, 1944, 1927, 1910] ++
  [1891, 1871, 1850, 1828, 1805, 1781, 1756, 1729,
   1702, 1674, 1644, 1614, 1582, 1550, 1517, 1483] ++
  [1447, 1411, 1375, 1337, 1299, 1259, 1219, 1179,
   1137, 1095, 1052, 1009, 965, 920, 875, 830] ++
  [783, 737, 690, 642, 594, 546, 497, 449,
   399, 350, 300, 251, 201, 151, 100, 50]

/-- `SINE_ROM` entries 128 to 191 (40_tables.md R113). -/
def sineQuarter2 : List Int :=
  [0, -50, -100, -151, -201, -251, -300, -350,
   -399, -449, -497, -546, -594, -642, -690, -737] ++
  [-783, -830, -875, -920, -965, -1009, -1052, -1095,
   -1137, -1179, -1219, -1259, -1299, -1337, -1375, -1411] ++
  [-1447, -1483, -1517, -1550, -1582, -1614, -1644, -1674,
   -1702, -1729, -1756, -1781, -1805, -1828, -1850, -1871] ++
  [-1891, -1910, -1927, -1944, -1959, -1973, -1986, -1997,
   -2008, -2017, -2025, -2032, -2037, -2041, -2045, -2046]

/-- `SINE_ROM` entries 192 to 255 (40_tables.md R113). -/
def sineQuarter3 : List Int :=
  [-2047, -2046, -2045, -2041, -2037, -2032, -2025, -2017,
   -2008, -1997, -1986, -1973, -1959, -1944, -1927, -1910] ++
  [-1891, -1871, -1850, -1828, -1805, -1781, -1756, -1729,
   -1702, -1674, -1644, -1614, -1582, -1550, -1517, -1483] ++
  [-1447, -1411, -1375, -1337, -1299, -1259, -1219, -1179,
   -1137, -1095, -1052, -1009, -965, -920, -875, -830] ++
  [-783, -737, -690, -642, -594, -546, -497, -449,
   -399, -350, -300, -251, -201, -151, -100, -50]
/-- The default 256-entry `SINE_ROM`, each entry as its 12-bit two's complement pattern
(40_tables.md R113, 30_encoding.md R103). -/
def sineTable256 : List Sample :=
  (sineQuarter0 ++ sineQuarter1 ++ sineQuarter2 ++ sineQuarter3).map (BitVec.ofInt 12)

/-- `SINE_ROM` is the generated one for `SINE_BITS = bits` (40_tables.md R112). -/
def IsSineTable (bits : Nat) (rom : List Sample) : Prop :=
  rom.length = 2 ^ bits ∧
  ∀ (i : Nat) (v : Sample), rom[i]? = some v →
    RoundsTo ((sineAmp : ℝ) * Real.sin (2 * Real.pi * i / 2 ^ bits)) (rawSample v)

/-- What the generator of an increment table answers for real frequencies `f i`: the table of the rounded
entries, or a refusal by name when an entry lies outside `[0, 2^32 - 1]` or the rate is 0
(40_tables.md R118, 00_scope.md R10 (h), assumptions 22 and 23). -/
def IncrementsGenerate (f : Nat → ℝ) (rate len : Nat) : Except Constraint (List Word) → Prop
  | .ok rom => rom.length = len ∧
      ∀ (i : Nat) (inc : Word), rom[i]? = some inc → IncrementIs rate (f i) inc.toNat
  | .error c => c = .incrementRange ∧
      (rate = 0 ∨ ¬InRange f rate len)

/-- What the SWOOP generator answers (40_tables.md R116, R118). -/
def SwoopGenerates (w : Waveform) (rate len : Nat) : Except Constraint (List Word) → Prop :=
  IncrementsGenerate (swoopHz w len) rate len

/-- What the CHIRP generator answers (40_tables.md R117, R118). -/
def ChirpGenerates (w : Waveform) (rate len : Nat) : Except Constraint (List Word) → Prop :=
  IncrementsGenerate (chirpHz w) rate len

/-- One generated phase increment for a rational frequency, refused by name outside `[0, 2^32 - 1]`
(40_tables.md R118, 00_scope.md R10 (h)). DESIGN CHOICE: the range is that of the rounded entry, so a
negative frequency above `-SAMPLE_RATE_HZ * 2^-33` Hz gives the entry 0 and is accepted, although R118's
parenthesis and 95_test_vectors.md V1 name negative frequencies as refused (assumption 22); a rate of 0,
by which the formula divides, is refused (assumption 23). -/
def genIncrement (hz : ℚ) (rate : Nat) : Except Constraint Word :=
  let inc := roundHalfAway (scaledHz rate hz)
  if rate ≠ 0 ∧ 0 ≤ inc ∧ inc ≤ 2 ^ 32 - 1 then .ok (BitVec.ofInt 32 inc) else .error .incrementRange

/-- The `n` generated `INC_CHIRP` entries from entry `i` on, for rational coefficients
(40_tables.md R117, R118). -/
def genChirp (a f0 : ℚ) (rate : Nat) : Nat → Nat → Except Constraint (List Word)
  | _, 0 => .ok []
  | i, n + 1 =>
    match genIncrement (a * (i : ℚ) ^ 2 + f0) rate, genChirp a f0 rate (i + 1) n with
    | .ok inc, .ok rest => .ok (inc :: rest)
    | .error c, _ => .error c
    | _, .error c => .error c

/-- The envelope shape as an exact rational (40_tables.md R120). -/
def envShape (len ramp i : Nat) : ℚ :=
  if i < ramp then (i : ℚ) / ramp
  else if i < len - ramp then 1
  else ((len - 1 - i : Nat) : ℚ) / ramp

/-- The Q1.15 envelope code (40_tables.md R121). -/
def envCode (len ramp i : Nat) : EnvCode :=
  BitVec.ofNat 16
    (if i < ramp then (2 * i * 32768 + ramp) / (2 * ramp)
     else if i < len - ramp then 32768
     else (2 * (len - 1 - i) * 32768 + ramp) / (2 * ramp))

/-- The generated envelope of a region (40_tables.md R121, R123). -/
def envTable (len ramp : Nat) : List EnvCode := tabulate (envCode len ramp) 0 len

/-- The song-relative envelope of the concatenated policy: 0 through the rest (40_tables.md R124). -/
def envSong (p : Params) : List EnvCode :=
  envTable p.swoopLen p.rampLen ++ List.replicate p.restLen 0 ++ envTable p.chirpLen p.rampLen

/-- The build-time phase after a run of increments (40_tables.md R125). -/
def phaseAfter (ph : Word) (incs : List Word) : Word := incs.foldl phaseAdd ph

/-- Rendering a segment: the magnitudes for a run of increments and envelope codes (40_tables.md R125). -/
def renderSegment (sine : List Sample) (shift : Nat) : Word → List Word → List EnvCode → List Sample
  | ph, inc :: incs, e :: envs =>
    let ph' := phaseAdd ph inc
    BitVec.ofNat 12 (mag (rawSample (sine[sineIndex shift ph']?.getD 0)) e)
      :: renderSegment sine shift ph' incs envs
  | _, [], _ => []
  | _, _, [] => []

/-- `PCM_ROM` rendered from the segment tables: SWOOP, a REST of zeros through which the phase does not
advance, CHIRP (40_tables.md R125). -/
def pcmTable (p : Params) (t : SegmentTables) : List Sample :=
  renderSegment t.sine p.shift 0 t.incSwoop t.envSwoop ++ List.replicate p.restLen 0 ++
    renderSegment t.sine p.shift (phaseAfter 0 t.incSwoop) t.incChirp t.envChirp

/-- The segment tables are the generators' output (40_tables.md R127). -/
def TablesGenerated (w : Waveform) (p : Params) (t : SegmentTables) : Prop :=
  IsSineTable p.sineBits t.sine ∧
  SwoopGenerates w p.sampleRateHz p.swoopLen (.ok t.incSwoop) ∧
  ChirpGenerates w p.sampleRateHz p.chirpLen (.ok t.incChirp) ∧
  t.envSwoop = envTable p.swoopLen p.rampLen ∧
  t.envChirp = envTable p.chirpLen p.rampLen

/-- The images of a configuration record are the generators' output, the premise of a claim about the
waveform "as the source defines it" (40_tables.md R127). -/
def ImagesGenerated (r : ConfigRecord) : Prop :=
  match r.images with
  | .segmented t => TablesGenerated r.toWaveform r.toParams t
  | .concatenated pcm => ∃ t, TablesGenerated r.toWaveform r.toParams t ∧ pcm = pcmTable r.toParams t

end Sys2Proof.Machine
end

