-- ==== Sys2Proof/Machine/Defaults.lean ====
section
/-! DEFINITION. The default configurations of 00_scope.md R9, one for each policy. The OPEN parameters have
no value in the spec; the values here are DESIGN CHOICE (assumption 3): `CLK_PER_US = 2` and
`SCLK_HALF = 1` as in configuration `DEF` of 95_test_vectors.md, `REST_LEN = 1000`, and a constant
frequency of 1000 Hz (`SWOOP_CENTER_HZ = CHIRP_F0_HZ = 1000`, `SWOOP_DEV_HZ = CHIRP_A = 0`), whose
increment is the reference value 85899346 of 40_tables.md R119. No statement rests on them: a state may
hold any admitted configuration. -/

namespace Sys2Proof.Machine

theorem length_tabulate {α : Type} (f : Nat → α) (i n : Nat) : (tabulate f i n).length = n := by
  induction n generalizing i with
  | zero => rfl
  | succ n ih => simp [tabulate, ih]

theorem length_renderSegment (sine : List Sample) (shift : Nat) (ph : Word) (incs : List Word)
    (envs : List EnvCode) (h : incs.length = envs.length) :
    (renderSegment sine shift ph incs envs).length = incs.length := by
  induction incs generalizing ph envs with
  | nil => cases envs <;> rfl
  | cons inc incs ih =>
    cases envs with
    | nil => simp at h
    | cons e envs => simp [renderSegment, ih (phaseAdd ph inc) envs (by simpa using h)]

/-- The increment of 1000 Hz at 50000 Hz (40_tables.md R119). -/
def defaultIncrement : Word := 85899346

/-- The generated segment tables of the default configuration. -/
def defaultTables : SegmentTables where
  sine := sineTable256
  incSwoop := List.replicate 5200 defaultIncrement
  incChirp := List.replicate 5200 defaultIncrement
  envSwoop := envTable 5200 1000
  envChirp := envTable 5200 1000

/-- The defaults of 00_scope.md R9 with given images. -/
def defaultParams (restUs : Nat) (images : Images) : Params where
  sampleRateHz := 50000
  periodUs := 20
  restUs := restUs
  sineBits := 8
  ctrlNibble := 0x3
  swoopLen := 5200
  chirpLen := 5200
  rampLen := 1000
  restLen := 1000
  clkPerUs := 2
  sclkHalf := 1
  images := images

/-- The default parameters of the segmented policy: `REST_US = 250000` (00_scope.md R9). -/
def segmentedParams : Params := defaultParams 250000 (.segmented defaultTables)

/-- The default parameters of the concatenated policy: `REST_US = 500000` (00_scope.md R9), the buffer
rendered from the default tables (40_tables.md R125). -/
def concatenatedParams : Params :=
  defaultParams 500000 (.concatenated (pcmTable segmentedParams defaultTables))

theorem length_sineTable256 : sineTable256.length = 256 := by
  have h0 : sineQuarter0.length = 64 := by decide
  have h1 : sineQuarter1.length = 64 := by decide
  have h2 : sineQuarter2.length = 64 := by decide
  have h3 : sineQuarter3.length = 64 := by decide
  simp only [sineTable256, List.length_map, List.length_append, h0, h1, h2, h3]

theorem length_envTable (len ramp : Nat) : (envTable len ramp).length = len :=
  length_tabulate _ _ _

theorem length_pcmTable (p : Params) (t : SegmentTables)
    (hs : t.incSwoop.length = t.envSwoop.length) (hc : t.incChirp.length = t.envChirp.length) :
    (pcmTable p t).length = t.incSwoop.length + p.restLen + t.incChirp.length := by
  simp only [pcmTable, List.length_append, List.length_replicate,
    length_renderSegment _ _ _ _ _ hs, length_renderSegment _ _ _ _ _ hc]

theorem length_defaultInc : (List.replicate 5200 defaultIncrement).length = 5200 :=
  List.length_replicate

theorem segmentedParams_admitted : segmentedParams.broken = none := by
  have hfit : segmentedParams.imagesFit = true := by
    simp only [Params.imagesFit, segmentedParams, defaultParams, defaultTables, length_defaultInc,
      length_envTable, length_sineTable256, Params.sineSize]
    decide
  simp only [Params.broken, hfit]
  decide

theorem concatenatedParams_admitted : concatenatedParams.broken = none := by
  have hlen : (pcmTable segmentedParams defaultTables).length = 11400 := by
    rw [length_pcmTable]
    · simp only [defaultTables, length_defaultInc, segmentedParams, defaultParams]
    · simp only [defaultTables, length_defaultInc, length_envTable]
    · simp only [defaultTables, length_defaultInc, length_envTable]
  have hfit : concatenatedParams.imagesFit = true := by
    simp only [Params.imagesFit, concatenatedParams, defaultParams, hlen, Params.songLen]
    decide
  simp only [Params.broken, hfit]
  decide

/-- The default configuration record over given parameters: constant frequencies, generated increments. -/
def defaultRecord (p : Params) : ConfigRecord where
  toParams := p
  swoopCenterHz := 1000
  swoopDevHz := 0
  chirpF0Hz := 1000
  chirpA := 0
  increments := .generated

/-- The default configuration of the segmented policy. -/
def segmentedConfig : Config := ⟨segmentedParams, segmentedParams_admitted⟩

/-- The default configuration of the concatenated policy. -/
def concatenatedConfig : Config := ⟨concatenatedParams, concatenatedParams_admitted⟩

/-- The default configuration of a policy. -/
def defaultConfig : Policy → Config
  | .segmented => segmentedConfig
  | .concatenated => concatenatedConfig

end Sys2Proof.Machine
end

