-- ==== Sys2Proof/Machine/State.lean ====
section
/-! DEFINITION. The state of the block as plain data: the fifteen registers of 10_state.md R25 to R39, and
four fields of the model's own: the configuration (constant while the block runs), the host's pending
input vectors, the value `host_rdata` had in the last cycle, and the part of a frame's cycle count that the
24 bits of `XCNT` do not hold. -/

namespace Sys2Proof.Machine

/-- The read-only memories (10_state.md R40). -/
inductive Rom where
  | sineRom
  | incSwoop
  | incChirp
  | envSwoop
  | envChirp
  | pcmRom
  deriving DecidableEq, Repr

/-- Why a step stops with a fault. -/
inductive Fault where
  /-- An emitting operation reads an entry that the memory does not have, or a memory that does not exist
  under the configured policy. Raised by `execSegEmit` and `execCatEmit`; safe: the spec says that no
  such index is ever formed (20_memory.md R62, 10_state.md R40), and a state in which one is formed is
  reached by no run (assumption 6). -/
  | romOutOfRange (rom : Rom) (index : Nat)
  deriving DecidableEq, Repr

/-- Why a step, or the building of a machine, is refused. -/
inductive Refusal where
  /-- An operation with no meaning yet. Raised by refused arms of `exec` only; safe. -/
  | notModelled (mnemonic : String)
  /-- The parameters break a constraint of 00_scope.md R10. Raised by `State.boot` before any step
  (60_exceptions.md R301); safe. -/
  | configuration (broken : Constraint)
  deriving DecidableEq, Repr

/-- The block's registers, with the configuration it was built from and the host's side of the port. -/
structure State where
  /-- The parameters and memory images; no step changes them (00_scope.md R7). -/
  cfg        : Config
  /-- `PHASE` (10_state.md R25). -/
  phase      : Word
  /-- `SEG` (10_state.md R26). -/
  seg        : Segment
  /-- `IDX` (10_state.md R27). -/
  idx        : Index
  /-- `TIME` (10_state.md R28). -/
  time       : Word
  /-- `PRESC`, a count below `CLK_PER_US` (10_state.md R29). -/
  presc      : Nat
  /-- `ALARM` (10_state.md R30). -/
  alarm      : Word
  /-- `ARMED` (10_state.md R31). -/
  armed      : Bool
  /-- `PENDING` (10_state.md R32). -/
  pending    : Bool
  /-- `ENABLE` (10_state.md R33). -/
  enable     : Bool
  /-- `BUSY` (10_state.md R34). -/
  busy       : Bool
  /-- `XCNT`, the cycle of the frame, 24 bits (10_state.md R35); `frameCycle` is the whole count. -/
  xcnt       : FrameCount
  /-- `LAST_WORD` (10_state.md R36). -/
  lastWord   : DacWord
  /-- `VALID` (10_state.md R37). -/
  valid      : Bool
  /-- `PROBE_PULSE` (10_state.md R38). -/
  probePulse : Bool
  /-- `MISSED` (10_state.md R39). -/
  missed     : Word
  /-- The model's own: the value of the port `host_rdata` in the cycle that the last edge ended
  (45_host.md R250, assumption 2). -/
  hostRdata  : Word
  /-- The model's own: the input vectors of the coming cycles, first one first (30_encoding.md R102);
  after the last one the host is silent (assumption 1). -/
  inputs     : List HostInput
  /-- The model's own: the part of the frame's cycle count above the 24 bits of `XCNT`, in units of 2^24
  cycles; 0 wherever `XFER_CYCLES` is at most 2^24 (assumption 5). -/
  xcntHigh   : Nat
  deriving DecidableEq, Repr

namespace State

/-- The state after a reset edge for a configuration and a host script: every register at its value of
10_state.md R45. `hostRdata` starts at 0 (DESIGN CHOICE, assumption 2), and so does the part of the frame's
count above `XCNT` (assumption 5). -/
def resetOf (c : Config) (script : List HostInput) : State where
  cfg := c
  phase := 0
  seg := .swoop
  idx := 0
  time := 0
  presc := 0
  alarm := 0
  armed := false
  pending := false
  enable := false
  busy := false
  xcnt := 0
  lastWord := 0
  valid := false
  probePulse := false
  missed := 0
  hostRdata := 0
  inputs := script
  xcntHigh := 0

/-- The machine right after reset with the default configuration and a silent host. -/
def reset : State := resetOf segmentedConfig []

end State

/-- A machine built from a configuration record and a host script, in its reset state: refused by name
when a constraint is broken (00_scope.md R7, 60_exceptions.md R301). -/
def State.boot (r : ConfigRecord) [Decidable r.IncrementsFit] (script : List HostInput) :
    Host.Outcome State Fault Refusal :=
  match Config.build r with
  | .ok c => .next (State.resetOf c script)
  | .error c => .refused (.configuration c)

end Sys2Proof.Machine
end

