-- ==== Sys2Proof/Machine/Operands.lean ====
section
/-! DEFINITION. The operands of the operations: the inputs of the current cycle, the bound of the active
region, and the entries an operation reads from the read-only memories, assembled as 30_encoding.md R97
says. A read of an entry that does not exist is a fault by name (assumption 6). -/

namespace Sys2Proof.Machine

/-- The inputs sampled at the coming edge: the head of the script, or a silent host after its end
(30_encoding.md R100, R102, assumption 1). -/
def State.input (s : State) : HostInput := s.inputs.head?.getD .nop

/-- `LEN(s)` (00_scope.md R13). -/
def State.len (s : State) : Nat := s.cfg.regionLen s.seg

/-- The entry at an index of a memory, or the fault that names it. -/
def romEntry {α : Type} (rom : Rom) (entries : List α) (i : Nat) : Except Fault α :=
  match entries[i]? with
  | some v => .ok v
  | none => .error (.romOutOfRange rom i)

/-- The increment memory of a segment. -/
def incRom : Segment → Rom
  | .swoop => .incSwoop
  | .chirp => .incChirp

/-- The envelope memory of a segment. -/
def envRom : Segment → Rom
  | .swoop => .envSwoop
  | .chirp => .envChirp

/-- `INC_SEG[i]` of the active segment (42_sequencer.md R163, 30_encoding.md R97 (c)). -/
def readInc (c : Config) (seg : Segment) (i : Nat) : Except Fault Word :=
  match c.images with
  | .segmented t => romEntry (incRom seg) (t.inc seg) i
  | .concatenated _ => .error (.romOutOfRange (incRom seg) i)

/-- `ENV_SEG[i]` of the active segment (42_sequencer.md R163, 30_encoding.md R97 (d)). -/
def readEnv (c : Config) (seg : Segment) (i : Nat) : Except Fault EnvCode :=
  match c.images with
  | .segmented t => romEntry (envRom seg) (t.env seg) i
  | .concatenated _ => .error (.romOutOfRange (envRom seg) i)

/-- `sine_lookup(sine_index(ph))` (41_phase_sine.md R141, R142, 30_encoding.md R97 (a), (b)). -/
def readSine (c : Config) (ph : Word) : Except Fault Int :=
  match c.images with
  | .segmented t => (romEntry .sineRom t.sine (sineIndex c.shift ph)).map rawSample
  | .concatenated _ => .error (.romOutOfRange .sineRom (sineIndex c.shift ph))

/-- `zext_12(PCM_ROM[i])` (42_sequencer.md R166, 30_encoding.md R97 (e)). -/
def readPcm (c : Config) (i : Nat) : Except Fault Nat :=
  match c.images with
  | .segmented _ => .error (.romOutOfRange .pcmRom i)
  | .concatenated pcm => (romEntry .pcmRom pcm i).map BitVec.toNat

/-- What `SEG_EMIT` computes: the new phase and the DAC word (42_sequencer.md R163). -/
def segSample (c : Config) (seg : Segment) (i : Nat) (phase : Word) :
    Except Fault (Word × DacWord) := do
  let inc ← readInc c seg i
  let e ← readEnv c seg i
  let ph := phaseAdd phase inc
  let raw ← readSine c ph
  return (ph, dacWord c.ctrlNibble (mag raw e))

/-- What `CAT_EMIT` computes: the DAC word (42_sequencer.md R166). -/
def catSample (c : Config) (i : Nat) : Except Fault DacWord := do
  let m ← readPcm c i
  return dacWord c.ctrlNibble m

end Sys2Proof.Machine
end

