-- ==== Sys2Proof/Machine/Flags.lean ====
section
/-! DEFINITION. The conditions and status bits of the block. There are no arithmetic flags
(10_state.md R41); what there is: the end-of-region bit and the tick selector (42_sequencer.md R161), the late
condition and the saturating count (44_timer.md R229), the events of an edge (44_timer.md R224, R227, R230,
R231), the probe value (43_output.md R199), and the register words the host reads (45_host.md R251 to R264). -/

namespace Sys2Proof.Machine

/-- A bit as a 32-bit word. -/
def bitWord (b : Bool) : Word := if b then 1 else 0

/-- `AT_END` (42_sequencer.md R161). -/
def atEnd (s : State) : Bool := decide (s.len ≤ s.idx.toNat)

/-- The tick selector `[POLICY, SEG, AT_END]` of the coming edge (30_encoding.md R84). -/
def tickSelector (s : State) : BitVec 3 :=
  tickWord (policyBit s.cfg.policy) (segBit s.seg) (atEnd s)

/-- `late`: the time has moved past the deadline that fired (44_timer.md R229). -/
def isLate (s : State) : Bool := s.time != s.alarm

/-- `min(MISSED + 1, 2^32 - 1)` (44_timer.md R229). -/
def saturatingSucc (m : Word) : Word := BitVec.ofNat 32 (min (m.toNat + 1) (2 ^ 32 - 1))

/-- The cycle carries a write to `CTRL` (46_cycle_step.md R280). -/
def writesCtrl (i : HostInput) : Bool := i.we && i.addr == 0

/-- `en_set`: the edge carries an enabling write (44_timer.md R230). -/
def enabling (s : State) : Bool := writesCtrl s.input && s.input.wdata.getLsbD 0 && !s.enable

/-- `dis`: the edge carries a disabling write (44_timer.md R231). -/
def disabling (s : State) : Bool := writesCtrl s.input && !s.input.wdata.getLsbD 0 && s.enable

/-- `fire`: the comparator's match event (44_timer.md R224). -/
def fires (s : State) : Bool := s.armed && s.time == s.alarm && !disabling s

/-- `start`: the edge is a tick-start edge (44_timer.md R227). -/
def startsTick (s : State) : Bool := s.enable && s.pending && !s.busy && !disabling s

/-- The value of the `probe` output (43_output.md R199). -/
def probe (s : State) : Bool := s.busy || s.probePulse

/-- Word 0x0 `CTRL` (45_host.md R251). -/
def ctrlWord (s : State) : Word := bitWord s.enable

/-- Word 0x1 `STATUS` (45_host.md R252). -/
def statusWord (s : State) : Word :=
  bitWord s.valid <<< 7 ||| bitWord (probe s) <<< 6 ||| bitWord (policyBit s.cfg.policy) <<< 5 |||
    bitWord (segBit s.seg) <<< 4 ||| bitWord s.armed <<< 3 ||| bitWord s.pending <<< 2 |||
    bitWord s.busy <<< 1 ||| bitWord s.enable

/-- Word 0x3 `INDEX` (45_host.md R254). -/
def indexWord (s : State) : Word := s.idx.setWidth 32

/-- Word 0x7 `LAST_WORD` (45_host.md R258). -/
def lastWordWord (s : State) : Word := bitWord s.valid <<< 16 ||| s.lastWord.setWidth 32

/-- Word 0x8 `CFG0` (45_host.md R259). -/
def cfg0Word (c : Config) : Word :=
  c.ctrlNibble.setWidth 32 <<< 16 ||| BitVec.ofNat 32 c.sineBits <<< 8 ||| bitWord (policyBit c.policy)

/-- Word 0x9 `CFG_LEN_A` (45_host.md R260). -/
def cfgLenAWord (c : Config) : Word :=
  match c.policy with
  | .segmented => BitVec.ofNat 32 c.swoopLen
  | .concatenated => BitVec.ofNat 32 c.songLen

/-- Word 0xA `CFG_LEN_B` (45_host.md R261). -/
def cfgLenBWord (c : Config) : Word :=
  match c.policy with
  | .segmented => BitVec.ofNat 32 c.chirpLen
  | .concatenated => 0

/-- Word 0xB `CFG_PERIOD` (45_host.md R262). -/
def cfgPeriodWord (c : Config) : Word := BitVec.ofNat 32 c.periodUs

/-- Word 0xC `CFG_REST` (45_host.md R263). -/
def cfgRestWord (c : Config) : Word := BitVec.ofNat 32 c.restUs

end Sys2Proof.Machine
end

