-- ==== Sys2Proof/Machine/Ops.lean ====
section
/-! DEFINITION. The named operations over the registers, from which every meaning is built: the port's read
side, the start of a frame, the effects common to every tick (the hardware form of taking an exception,
60_exceptions.md R306; there is no return operation, R307), the enabling and disabling writes, and the
always-running logic of an edge: fire, frame progress, probe pulse, time base, reset. -/

namespace Sys2Proof.Machine

/-- One operation after another; a stop ends the sequence. -/
def andThen (o : Host.Outcome State Fault Refusal) (f : State → Host.Outcome State Fault Refusal) :
    Host.Outcome State Fault Refusal :=
  match o with
  | .next s => f s
  | .fault r => .fault r
  | .refused r => .refused r

/-- Continue with an operand, or stop with the fault its read gave. -/
def withOperand {α : Type} (o : Except Fault α) (f : α → State) : Host.Outcome State Fault Refusal :=
  match o with
  | .ok v => .next (f v)
  | .error r => .fault r

/-- `host_rdata` in the cycle of the coming edge (45_host.md R250). -/
def putRdata (v : Word) (s : State) : State := { s with hostRdata := v }

/-- `emit(w)`: a serial frame starts (43_output.md R193). -/
def emitFrame (w : DacWord) (s : State) : State :=
  { s with lastWord := w, valid := true, busy := true, xcnt := 0, xcntHigh := 0 }

/-- `(TIME + delay) mod 2^32` (44_timer.md R228, R230). -/
def deadline (time : Word) (delay : Nat) : Word := BitVec.ofNat 32 (time.toNat + delay)

/-- Entering a tick, the effects common to every tick operation: the acknowledgement, the rearm with the
delay the operation names, the late check and the probe marking (42_sequencer.md R162, 44_timer.md R228,
R229, 43_output.md R199; 60_exceptions.md R306: nothing is saved and no mode changes). -/
def enterTick (delay : Nat) (transition : Bool) (s : State) : State :=
  { s with
    pending := false
    missed := if isLate s then saturatingSucc s.missed else s.missed
    alarm := deadline s.time delay
    armed := true
    probePulse := transition }

/-- The enabling write (44_timer.md R230). -/
def enableBlock (s : State) : State :=
  { s with enable := true, armed := true, pending := false, alarm := deadline s.time s.cfg.periodUs }

/-- The disabling write (44_timer.md R231). -/
def disableBlock (s : State) : State :=
  { s with enable := false, armed := false, pending := false }

/-- A write of the value `d` to `CTRL` (45_host.md R265). -/
def writeCtrl (d : Word) (s : State) : State :=
  if d.getLsbD 0 && !s.enable then enableBlock s
  else if !d.getLsbD 0 && s.enable then disableBlock s
  else s

/-- The fire, when it happens at the coming edge (44_timer.md R224). -/
def applyFire (s : State) : State :=
  if fires s then { s with armed := false, pending := true } else s

/-- The clock-cycle count within the current frame, in `[0, XFER_CYCLES - 1]` (10_state.md R35): the 24
bits of `XCNT` with the part above them, which is 0 wherever `XFER_CYCLES` is at most 2^24 (assumption 5). -/
def frameCycle (s : State) : Nat := s.xcntHigh * 2 ^ 24 + s.xcnt.toNat

/-- `XCNT` counts one cycle of the frame (43_output.md R194). -/
def countCycle (s : State) : State :=
  { s with
    xcnt := s.xcnt + 1
    xcntHigh := if s.xcnt.toNat + 1 < 2 ^ 24 then s.xcntHigh else s.xcntHigh + 1 }

/-- The edge is the last one of a frame (43_output.md R194). -/
def frameEnds (s : State) : Bool := s.busy && decide (frameCycle s = s.cfg.xferCycles - 1)

/-- Frame progress (43_output.md R194). -/
def frameProgress (s : State) : State :=
  if frameEnds s then { s with busy := false, xcnt := 0, xcntHigh := 0 }
  else if s.busy then countCycle s
  else s

/-- `PROBE_PULSE` is 0 after an edge that starts no transition tick (43_output.md R199). -/
def clearProbe (s : State) : State := { s with probePulse := false }

/-- The time base: the prescaler and the microsecond counter (44_timer.md R221, R222). -/
def timeBase (s : State) : State :=
  if s.presc = s.cfg.clkPerUs - 1 then { s with presc := 0, time := s.time + 1 }
  else { s with presc := s.presc + 1 }

/-- The inputs of the cycle have been used. -/
def nextCycle (s : State) : State := { s with inputs := s.inputs.tail }

/-- The reset edge: every register takes its reset value (70_reset_and_hazards.md R320, 10_state.md R45).
The configuration, the rest of the script and the value that was read stay. -/
def applyReset (s : State) : State :=
  { State.resetOf s.cfg s.inputs with hostRdata := s.hostRdata }

end Sys2Proof.Machine
end

