-- ==== Sys2Proof/Machine/HostRead.lean ====
section
/-! DEFINITION. The sixteen host read commands of 45_host.md R251 to R264 and R267. A read drives
`host_rdata` in its own cycle from the registers before the edge and changes nothing else (20_memory.md R67);
the model keeps the driven value in `hostRdata` (assumption 2). -/

namespace Sys2Proof.Machine

/-- `RD_CTRL` (45_host.md R251). -/
def execRdCtrl (s : State) : Host.Outcome State Fault Refusal := .next (putRdata (ctrlWord s) s)

/-- `RD_STATUS` (45_host.md R252). -/
def execRdStatus (s : State) : Host.Outcome State Fault Refusal := .next (putRdata (statusWord s) s)

/-- `RD_PHASE` (45_host.md R253). -/
def execRdPhase (s : State) : Host.Outcome State Fault Refusal := .next (putRdata s.phase s)

/-- `RD_INDEX` (45_host.md R254). -/
def execRdIndex (s : State) : Host.Outcome State Fault Refusal := .next (putRdata (indexWord s) s)

/-- `RD_TIME` (45_host.md R255). -/
def execRdTime (s : State) : Host.Outcome State Fault Refusal := .next (putRdata s.time s)

/-- `RD_ALARM` (45_host.md R256). -/
def execRdAlarm (s : State) : Host.Outcome State Fault Refusal := .next (putRdata s.alarm s)

/-- `RD_MISSED` (45_host.md R257). -/
def execRdMissed (s : State) : Host.Outcome State Fault Refusal := .next (putRdata s.missed s)

/-- `RD_LAST_WORD` (45_host.md R258). -/
def execRdLastWord (s : State) : Host.Outcome State Fault Refusal := .next (putRdata (lastWordWord s) s)

/-- `RD_CFG0` (45_host.md R259). -/
def execRdCfg0 (s : State) : Host.Outcome State Fault Refusal := .next (putRdata (cfg0Word s.cfg) s)

/-- `RD_CFG_LEN_A` (45_host.md R260). -/
def execRdCfgLenA (s : State) : Host.Outcome State Fault Refusal := .next (putRdata (cfgLenAWord s.cfg) s)

/-- `RD_CFG_LEN_B` (45_host.md R261). -/
def execRdCfgLenB (s : State) : Host.Outcome State Fault Refusal := .next (putRdata (cfgLenBWord s.cfg) s)

/-- `RD_CFG_PERIOD` (45_host.md R262). -/
def execRdCfgPeriod (s : State) : Host.Outcome State Fault Refusal := .next (putRdata (cfgPeriodWord s.cfg) s)

/-- `RD_CFG_REST` (45_host.md R263). -/
def execRdCfgRest (s : State) : Host.Outcome State Fault Refusal := .next (putRdata (cfgRestWord s.cfg) s)

/-- `RD_RSVD_D` (45_host.md R264). -/
def execRdRsvdD (s : State) : Host.Outcome State Fault Refusal := .next (putRdata 0 s)

/-- `RD_RSVD_EF` (45_host.md R264). -/
def execRdRsvdEF (_a : BitVec 4) (s : State) : Host.Outcome State Fault Refusal := .next (putRdata 0 s)

/-- `RD_NONE` (45_host.md R267). -/
def execRdNone (_a : BitVec 4) (s : State) : Host.Outcome State Fault Refusal := .next (putRdata 0 s)

end Sys2Proof.Machine
end

