-- ==== Sys2Proof/Machine/HostWrite.lean ====
section
/-! DEFINITION. The six host write commands of 45_host.md R265 to R267. Only `WR_CTRL` changes state. -/

namespace Sys2Proof.Machine

/-- `WR_CTRL`: the enabling write, the disabling write, or no effect (45_host.md R265). -/
def execWrCtrl (d : Word) (s : State) : Host.Outcome State Fault Refusal := .next (writeCtrl d s)

/-- `WR_IGN_1`: no effect (45_host.md R266). -/
def execWrIgn1 (_d : Word) (s : State) : Host.Outcome State Fault Refusal := .next s

/-- `WR_IGN_2_3`: no effect (45_host.md R266). -/
def execWrIgn23 (_a : BitVec 4) (_d : Word) (s : State) : Host.Outcome State Fault Refusal := .next s

/-- `WR_IGN_4_7`: no effect (45_host.md R266). -/
def execWrIgn47 (_a : BitVec 4) (_d : Word) (s : State) : Host.Outcome State Fault Refusal := .next s

/-- `WR_IGN_8_F`: no effect (45_host.md R266). -/
def execWrIgn8F (_a : BitVec 4) (_d : Word) (s : State) : Host.Outcome State Fault Refusal := .next s

/-- `WR_NONE`: no write happens (45_host.md R267). -/
def execWrNone (_a : BitVec 4) (_d : Word) (s : State) : Host.Outcome State Fault Refusal := .next s

end Sys2Proof.Machine
end

