-- ==== Sys2Proof/Machine/Sequencer.lean ====
section
/-! DEFINITION. The five tick operations of 42_sequencer.md R163 to R167, each with the effects of its
tick-start edge. The selector's `S` bit, where a row ignores it, is not read: the operand is `s.SEG`
(30_encoding.md R85, assumption 8). -/

namespace Sys2Proof.Machine

/-- `SEG_EMIT`: one sample of the active segment (42_sequencer.md R163). -/
def execSegEmit (_seg : Segment) (s : State) : Host.Outcome State Fault Refusal :=
  withOperand (segSample s.cfg s.seg s.idx.toNat s.phase) fun out =>
    emitFrame out.2 { enterTick s.cfg.periodUs false s with phase := out.1, idx := s.idx + 1 }

/-- `SEG_FLIP_S2C`: the end of SWOOP (42_sequencer.md R164). -/
def execSegFlipS2C (s : State) : Host.Outcome State Fault Refusal :=
  .next { enterTick s.cfg.periodUs true s with idx := 0, seg := .chirp }

/-- `SEG_FLIP_C2S_REST`: the end of CHIRP and the rest (42_sequencer.md R165, R173). -/
def execSegFlipC2SRest (s : State) : Host.Outcome State Fault Refusal :=
  .next { enterTick (s.cfg.periodUs + s.cfg.restUs) true s with idx := 0, seg := .swoop }

/-- `CAT_EMIT`: one sample of the concatenated buffer (42_sequencer.md R166). -/
def execCatEmit (_seg : Segment) (s : State) : Host.Outcome State Fault Refusal :=
  withOperand (catSample s.cfg s.idx.toNat) fun w =>
    emitFrame w { enterTick s.cfg.periodUs false s with idx := s.idx + 1 }

/-- `CAT_WRAP_REST`: the end of the concatenated buffer and the rest (42_sequencer.md R167, R173). -/
def execCatWrapRest (_seg : Segment) (s : State) : Host.Outcome State Fault Refusal :=
  .next { enterTick (s.cfg.periodUs + s.cfg.restUs) true s with idx := 0 }

end Sys2Proof.Machine
end

