-- ==== Sys2Proof/Machine/Dispatch.lean ====
section
/-! DEFINITION. One arm for each row of spec/opcode_table.json. -/

namespace Sys2Proof.Machine

/-- The effect of one operation at the edge it belongs to. -/
def exec (i : Instr) (s : State) : Host.Outcome State Fault Refusal :=
  match i with
  | .segEmit x => Sys2Proof.Machine.execSegEmit x s
  | .segFlipS2C => Sys2Proof.Machine.execSegFlipS2C s
  | .segFlipC2SRest => Sys2Proof.Machine.execSegFlipC2SRest s
  | .catEmit x => Sys2Proof.Machine.execCatEmit x s
  | .catWrapRest x => Sys2Proof.Machine.execCatWrapRest x s
  | .rdCtrl => Sys2Proof.Machine.execRdCtrl s
  | .rdStatus => Sys2Proof.Machine.execRdStatus s
  | .rdPhase => Sys2Proof.Machine.execRdPhase s
  | .rdIndex => Sys2Proof.Machine.execRdIndex s
  | .rdTime => Sys2Proof.Machine.execRdTime s
  | .rdAlarm => Sys2Proof.Machine.execRdAlarm s
  | .rdMissed => Sys2Proof.Machine.execRdMissed s
  | .rdLastWord => Sys2Proof.Machine.execRdLastWord s
  | .rdCfg0 => Sys2Proof.Machine.execRdCfg0 s
  | .rdCfgLenA => Sys2Proof.Machine.execRdCfgLenA s
  | .rdCfgLenB => Sys2Proof.Machine.execRdCfgLenB s
  | .rdCfgPeriod => Sys2Proof.Machine.execRdCfgPeriod s
  | .rdCfgRest => Sys2Proof.Machine.execRdCfgRest s
  | .rdRsvdD => Sys2Proof.Machine.execRdRsvdD s
  | .rdRsvdEF a => Sys2Proof.Machine.execRdRsvdEF a s
  | .rdNone a => Sys2Proof.Machine.execRdNone a s
  | .wrCtrl d => Sys2Proof.Machine.execWrCtrl d s
  | .wrIgn1 d => Sys2Proof.Machine.execWrIgn1 d s
  | .wrIgn23 a d => Sys2Proof.Machine.execWrIgn23 a d s
  | .wrIgn47 a d => Sys2Proof.Machine.execWrIgn47 a d s
  | .wrIgn8F a d => Sys2Proof.Machine.execWrIgn8F a d s
  | .wrNone a d => Sys2Proof.Machine.execWrNone a d s

end Sys2Proof.Machine
end

