-- ==== Sys2Proof/Machine/Edge.lean ====
section
/-! DEFINITION. One rising edge (46_cycle_step.md R280): the read command of the cycle, the always-running
logic, the tick operation if the edge starts a tick, the write command, the time base. The order is such
that every part reads only registers that still hold their pre-edge values, so the result is R280's, in
which every condition is on the pre-edge state (assumption 7). -/

namespace Sys2Proof.Machine

/-- The parts of an edge that run before its tick operation: fire, frame progress, probe pulse. -/
def beforeTick (s : State) : State := clearProbe (frameProgress (applyFire s))

/-- The tick operation of the edge, if it starts one (42_sequencer.md R161, 44_timer.md R227); whether it
does, and which it is, is decided on the pre-edge state `s0`. -/
def tickOperation (s0 s : State) : Host.Outcome State Fault Refusal :=
  if startsTick s0 then exec (decode (.ticksel (tickSelector s0))) s else .next s

/-- An edge with `rst = 0`, after its read command (46_cycle_step.md R280). -/
def runningEdge (s : State) : Host.Outcome State Fault Refusal :=
  andThen (tickOperation s (beforeTick s)) fun s1 =>
    andThen (exec s.input.writeCommand s1) fun s2 => .next (nextCycle (timeBase s2))

/-- An edge with `rst = 1`, after its read command (45_host.md R269, 70_reset_and_hazards.md R320). -/
def resetEdge (s : State) : Host.Outcome State Fault Refusal := .next (applyReset (nextCycle s))

/-- One rising edge. -/
def edge (s : State) : Host.Outcome State Fault Refusal :=
  andThen (exec s.input.readCommand s) fun s1 =>
    if s1.input.rst then resetEdge s1 else runningEdge s1

end Sys2Proof.Machine
end

