-- ==== Sys2Proof/Machine/Fetch.lean ====
section
/-! DEFINITION. Placing an operation where the next edge runs it. The block fetches nothing
(10_state.md R24): a host command arrives on the port, and a tick operation is selected by the registers
and the configuration (42_sequencer.md R161). Assumption 10 says how a program comes to run. -/

namespace Sys2Proof.Machine

/-- A cycle that carries one host read command and no write. -/
def readCycle (b : BitVec 5) : HostInput := ⟨false, false, hostEnable b, hostAddr b, 0⟩

/-- A cycle that carries one host write command and no read. -/
def writeCycle (b : BitVec 5) (d : Word) : HostInput := ⟨false, hostEnable b, false, hostAddr b, d⟩

/-- The configuration of a policy: the state's own if it has that policy, else the default one. -/
def configFor (p : Policy) (c : Config) : Config := if c.policy = p then c else defaultConfig p

/-- A state whose next edge is a tick-start edge with the given selector: enabled, a firing pending, no
frame in progress, no host command, the policy and segment of the selector, and the index at or before
the end of the region. -/
def placeTick (b : BitVec 3) (s : State) : State :=
  let c := configFor (policyOfBit (b.getLsbD 2)) s.cfg
  let seg := segOfBit (b.getLsbD 1)
  let n := c.regionLen seg
  { s with
    cfg := c
    seg := seg
    idx := if b.getLsbD 0 then BitVec.ofNat 24 n else if s.idx.toNat < n then s.idx else 0
    enable := true
    pending := true
    armed := false
    busy := false
    xcnt := 0
    xcntHigh := 0
    inputs := .nop :: s.inputs }

/-- A state whose next edge runs the operation of a raw word. -/
def place (r : RawWord) (s : State) : State :=
  match r with
  | .ticksel b => placeTick b s
  | .hostRd b => { s with inputs := readCycle b :: s.inputs }
  | .hostWr b d => { s with inputs := writeCycle b d :: s.inputs }

/-- A state whose next edge runs the operation of an opcode-table word; a word that no encoding has
changes nothing. -/
def placeTableWord (s : State) (nbits w : Nat) : State :=
  match tableRawWord nbits w with
  | some r => place r s
  | none => s

end Sys2Proof.Machine
end

