-- ==== Sys2Proof/Machine/Step.lean ====
section
/-! DEFINITION. The step of the machine is one rising edge (00_scope.md R19). -/

namespace Sys2Proof.Machine

/-- One step: one rising edge of `clk` (46_cycle_step.md R280). -/
def step (s : State) : Host.Outcome State Fault Refusal := edge s

/-- The state whose next step runs the operation of an opcode-table word (Machine/Fetch.lean). -/
def State.withFetchWord (s : State) (nbits w : Nat) : State := placeTableWord s nbits w

end Sys2Proof.Machine
end

