-- ==== Sys2Proof/Machine/Output.lean ====
section
/-! DEFINITION. What the outside sees: the output pins and the read port (46_cycle_step.md R283), and the
observation of a run, the frames with their start edges and the host read data (00_scope.md R19). -/

namespace Sys2Proof.Machine

/-- The half-period of the frame, `h = XCNT div SCLK_HALF` (43_output.md R194). -/
def halfPeriod (s : State) : Nat := frameCycle s / s.cfg.sclkHalf

/-- `dac_cs_n` (43_output.md R195). -/
def dacCsN (s : State) : Bool := !s.busy

/-- `dac_sclk` (43_output.md R195). -/
def dacSclk (s : State) : Bool := s.busy && halfPeriod s % 2 == 1

/-- `dac_mosi` (43_output.md R195). -/
def dacMosi (s : State) : Bool :=
  s.busy && decide (halfPeriod s ≤ 31) && s.lastWord.getLsbD (15 - halfPeriod s / 2)

/-- The serial pins and the probe pin in one clock cycle (10_state.md R22). -/
structure Pins where
  csN   : Bool
  sclk  : Bool
  mosi  : Bool
  probe : Bool
  deriving DecidableEq, Repr

/-- The pins of a state (46_cycle_step.md R283). -/
def pins (s : State) : Pins := ⟨dacCsN s, dacSclk s, dacMosi s, probe s⟩

/-- `REG(a)`: the value of host word `a` (45_host.md R250 to R264). -/
def hostReg (s : State) (a : BitVec 4) : Word :=
  match a.toNat with
  | 0x0 => ctrlWord s
  | 0x1 => statusWord s
  | 0x2 => s.phase
  | 0x3 => indexWord s
  | 0x4 => s.time
  | 0x5 => s.alarm
  | 0x6 => s.missed
  | 0x7 => lastWordWord s
  | 0x8 => cfg0Word s.cfg
  | 0x9 => cfgLenAWord s.cfg
  | 0xA => cfgLenBWord s.cfg
  | 0xB => cfgPeriodWord s.cfg
  | 0xC => cfgRestWord s.cfg
  | _ => 0

/-- The port `host_rdata` in the current cycle, combinational from the registers and the port inputs
(45_host.md R250, 46_cycle_step.md R283). -/
def portRdata (s : State) : Word := if s.input.re then hostReg s s.input.addr else 0

/-- One thing a run is observed by (00_scope.md R19, 92_eei_decisions.md D34). -/
inductive Event where
  /-- A complete frame: the edge that started it and its word (43_output.md R197). -/
  | frame (startEdge : Nat) (word : DacWord)
  /-- The data a read command returned in a cycle. -/
  | read (cycle : Nat) (value : Word)
  deriving DecidableEq, Repr

/-- The events of the cycle that edge number `k` ends. A frame is observed in its last cycle, when all its
`XFER_CYCLES` cycles have stood on the pins; it started `XFER_CYCLES` edges before. DESIGN CHOICE
(assumption 13): this holds also when that last edge is a reset edge, at which the pins show a complete
frame (93_implementation_defined.md I7) although 43_output.md R200 calls it aborted; a frame that a reset
ends in an earlier cycle is not observed. -/
def cycleEvents (k : Nat) (s t : State) : List Event :=
  (if s.input.re then [.read k t.hostRdata] else []) ++
  (if frameEnds s then [.frame (k - s.cfg.xferCycles) s.lastWord] else [])

/-- The observation of the next `n` edges, the first of them numbered `k`; it ends where a step stops. -/
def observe : Nat → Nat → State → List Event
  | 0, _, _ => []
  | n + 1, k, s =>
    match step s with
    | .next t => cycleEvents k s t ++ observe n (k + 1) t
    | .fault _ => []
    | .refused _ => []

end Sys2Proof.Machine
end

