-- ==== Sys2Proof/Machine/Script.lean ====
section
/-! DEFINITION. The host scripts of 30_encoding.md R100 to R102: the commands with the port values of their
cycles, the pseudo-commands, and a runner for the two commands whose length depends on the run. -/

namespace Sys2Proof.Machine

/-- The named host words (30_encoding.md R90). -/
inductive HostReg where
  | ctrl | status | phase | index | time | alarm | missed | lastWord
  | cfg0 | cfgLenA | cfgLenB | cfgPeriod | cfgRest
  deriving DecidableEq, Repr

/-- The word index of a named host word (30_encoding.md R90). -/
def HostReg.addr : HostReg → BitVec 4
  | .ctrl => 0x0
  | .status => 0x1
  | .phase => 0x2
  | .index => 0x3
  | .time => 0x4
  | .alarm => 0x5
  | .missed => 0x6
  | .lastWord => 0x7
  | .cfg0 => 0x8
  | .cfgLenA => 0x9
  | .cfgLenB => 0xA
  | .cfgPeriod => 0xB
  | .cfgRest => 0xC

/-- A script command (30_encoding.md R100) or pseudo-command (R101). A register operand is a word index;
an immediate is any number, reduced modulo 2^32. -/
inductive Cmd where
  | nop
  | rd (a : BitVec 4)
  | wr (a : BitVec 4) (imm : Nat)
  | rdwr (a : BitVec 4) (imm : Nat)
  | reset
  | idle (n : Nat)
  | start
  | stop
  | expect (a : BitVec 4) (v : Word)
  | poll (a : BitVec 4) (m v : Word)
  | runToEdge (k : Nat)
  deriving DecidableEq, Repr

/-- The cycle of `rd` (30_encoding.md R100). -/
def rdCycle (a : BitVec 4) : HostInput := ⟨false, false, true, a, 0⟩

/-- The cycle of `wr` (30_encoding.md R100). -/
def wrCycle (a : BitVec 4) (imm : Nat) : HostInput := ⟨false, true, false, a, BitVec.ofNat 32 imm⟩

/-- The cycle of `rdwr` (30_encoding.md R100). -/
def rdwrCycle (a : BitVec 4) (imm : Nat) : HostInput := ⟨false, true, true, a, BitVec.ofNat 32 imm⟩

/-- The cycle of `reset` (30_encoding.md R100). -/
def resetCycle : HostInput := ⟨true, false, false, 0, 0⟩

/-- The cycles of a command of fixed length; `poll` and `run_to_edge` have none of their own
(30_encoding.md R100, R101). -/
def Cmd.cycles : Cmd → Option (List HostInput)
  | .nop => some [.nop]
  | .rd a => some [rdCycle a]
  | .wr a imm => some [wrCycle a imm]
  | .rdwr a imm => some [rdwrCycle a imm]
  | .reset => some [resetCycle]
  | .idle n => some (List.replicate n .nop)
  | .start => some [wrCycle HostReg.ctrl.addr 1]
  | .stop => some [wrCycle HostReg.ctrl.addr 0]
  | .expect a _ => some [rdCycle a]
  | .poll _ _ _ => none
  | .runToEdge _ => none

/-- The input vectors of a script of fixed length (30_encoding.md R102). -/
def assemble : List Cmd → Option (List HostInput)
  | [] => some []
  | c :: cs =>
    match c.cycles, assemble cs with
    | some is, some rest => some (is ++ rest)
    | _, _ => none

/-- A running script: the machine, and the number of the last edge, counted from 0 at the script's first
`reset` (30_encoding.md R101, 95_test_vectors.md section 0); before it edges have no number. -/
structure Session where
  machine : State
  edge    : Option Nat
  deriving DecidableEq, Repr

/-- How a script's command ends. -/
inductive ScriptResult where
  | running (σ : Session)
  /-- An `expect` read another value (30_encoding.md R101); the session is the one after its cycle, where the
  runner stops (assumption 24). -/
  | failed (σ : Session)
  /-- A `poll` or `run_to_edge` had not ended when the given number of cycles was used up. -/
  | unfinished (σ : Session)
  /-- The machine stopped. -/
  | stopped
  deriving DecidableEq, Repr

/-- The number of the edge after edge `e`, in a cycle with reset or without it. -/
def nextEdge (e : Option Nat) (rst : Bool) : Option Nat :=
  match e with
  | some k => some (k + 1)
  | none => if rst then some 0 else none

/-- One cycle of a script. -/
def runCycle (i : HostInput) (σ : Session) : ScriptResult :=
  match step { σ.machine with inputs := [i] } with
  | .next t => .running ⟨t, nextEdge σ.edge i.rst⟩
  | .fault _ => .stopped
  | .refused _ => .stopped

/-- The cycles of a script, one after another. -/
def runCycles : List HostInput → Session → ScriptResult
  | [], σ => .running σ
  | i :: is, σ =>
    match runCycle i σ with
    | .running σ' => runCycles is σ'
    | r => r

/-- `poll`: reads until the masked value matches, for at most `fuel` cycles (30_encoding.md R101). -/
def runPoll (a : BitVec 4) (m v : Word) : Nat → Session → ScriptResult
  | 0, σ => .unfinished σ
  | fuel + 1, σ =>
    match runCycle (rdCycle a) σ with
    | .running σ' =>
      if σ'.machine.hostRdata &&& m = v then .running σ' else runPoll a m v fuel σ'
    | r => r

/-- One command; `fuel` bounds the cycles of a `poll`. A `run_to_edge` before the script's first `reset`
does not end (30_encoding.md R101, assumption 16). -/
def runCmd (fuel : Nat) (c : Cmd) (σ : Session) : ScriptResult :=
  match c with
  | .poll a m v => runPoll a m v fuel σ
  | .runToEdge k =>
    match σ.edge with
    | some e => runCycles (List.replicate (k - e) .nop) σ
    | none => .unfinished σ
  | .expect a v =>
    match runCycle (rdCycle a) σ with
    | .running σ' => if σ'.machine.hostRdata = v then .running σ' else .failed σ'
    | r => r
  | c => runCycles (c.cycles.getD []) σ

/-- A script, command by command. DESIGN CHOICE (assumption 24): it ends at the first `expect` that fails, and
the commands after that one do not run; 30_encoding.md R101 only calls the failed check a failure of the
script. -/
def runScript (fuel : Nat) : List Cmd → Session → ScriptResult
  | [], σ => .running σ
  | c :: cs, σ =>
    match runCmd fuel c σ with
    | .running σ' => runScript fuel cs σ'
    | r => r

end Sys2Proof.Machine
end

