-- ==== Sys2Proof/Safety.lean ====
section
/-! DEFINITION. What a safe run is, in the terms the statements use: the invariants of 10_state.md R43 and
R44, the timing invariants behind 44_timer.md R225 and 70_reset_and_hazards.md R333, the next-state
function of 46_cycle_step.md R280 written register by register, and runs of several edges. -/

namespace Sys2Proof.Machine

/-- The invariants of 10_state.md R43 (a) to (g) and R44, with the ranges of `PRESC` and `XCNT`
(10_state.md R29, R35). -/
structure Inv (s : State) : Prop where
  armed_enabled : s.armed = true → s.enable = true
  pending_enabled : s.pending = true → s.enable = true
  not_armed_and_pending : ¬(s.armed = true ∧ s.pending = true)
  enabled_waits : s.enable = true → s.armed = true ∨ s.pending = true
  idle_count : s.busy = false → s.xcnt = 0 ∧ s.xcntHigh = 0
  busy_valid : s.busy = true → s.valid = true
  concatenated_still : s.cfg.policy = .concatenated → s.seg = .swoop ∧ s.phase = 0
  index_range : s.idx.toNat ≤ s.len
  presc_range : s.presc < s.cfg.clkPerUs
  xcnt_range : frameCycle s < s.cfg.xferCycles

/-- When the armed deadline equals the time, the microsecond has just begun (44_timer.md R225). -/
def FireAligned (s : State) : Prop := s.armed = true → s.time = s.alarm → s.presc = 0

/-- The microseconds from `TIME` to `ALARM`, modulo 2^32. -/
def microsToAlarm (s : State) : Nat := (s.alarm - s.time).toNat

/-- No frame keeps a firing waiting past its microsecond: the frame in progress ends before the deadline's
microsecond does, and a pending firing's microsecond has not passed (70_reset_and_hazards.md R333). -/
structure OnTime (s : State) : Prop where
  armed_frame : s.armed = true → s.busy = true →
    s.cfg.xferCycles + s.presc < frameCycle s + (microsToAlarm s + 1) * s.cfg.clkPerUs
  pending_time : s.pending = true → s.time = s.alarm
  pending_frame : s.pending = true → s.busy = true →
    s.cfg.xferCycles + s.presc < frameCycle s + s.cfg.clkPerUs

/-- The frame fits the period (70_reset_and_hazards.md R333 (a)). -/
def FrameFits (c : Config) : Prop := c.xferCycles < c.periodUs * c.clkPerUs

/-- `t` is the state after `k` more edges. -/
def After (k : Nat) (s t : State) : Prop := Sys2Proof.core.run k s = .next t

/-- No edge before the `k`-th starts a tick. -/
def NoStartBefore (k : Nat) (s : State) : Prop :=
  ∀ n t, n < k → After n s t → startsTick t = false

/-- The host resets nothing and writes `CTRL` in no coming cycle. -/
def HostQuiet (s : State) : Prop := ∀ i ∈ s.inputs, i.rst = false ∧ writesCtrl i = false

/-- No coming cycle asserts `rst`. -/
def NoReset (s : State) : Prop := ∀ i ∈ s.inputs, i.rst = false

/-- An operation repeated `n` times in a row. -/
def repeatExec (i : Instr) : Nat → State → Host.Outcome State Fault Refusal
  | 0, s => .next s
  | n + 1, s => andThen (exec i s) (repeatExec i n)

/-- The effects common to every tick operation, from `s` to `t`: the acknowledgement, the rearm with a
delay, the late check and the probe marking (42_sequencer.md R162). -/
structure TickEffects (delay : Nat) (transition : Bool) (s t : State) : Prop where
  acknowledged : t.pending = false
  rearmed : t.armed = true
  deadline_set : t.alarm.toNat = (s.time.toNat + delay) % 2 ^ 32
  on_time : s.time = s.alarm → t.missed = s.missed
  late_counted : s.time ≠ s.alarm → t.missed.toNat = min (s.missed.toNat + 1) (2 ^ 32 - 1)
  probe_marked : t.probePulse = transition

/-- The registers that a tick operation which sends nothing leaves alone (42_sequencer.md R168), with the
fields no operation changes. -/
structure NothingSent (s t : State) : Prop where
  cfg : t.cfg = s.cfg
  phase : t.phase = s.phase
  time : t.time = s.time
  presc : t.presc = s.presc
  enable : t.enable = s.enable
  busy : t.busy = s.busy
  xcnt : t.xcnt = s.xcnt
  lastWord : t.lastWord = s.lastWord
  valid : t.valid = s.valid
  hostRdata : t.hostRdata = s.hostRdata
  inputs : t.inputs = s.inputs
  xcntHigh : t.xcntHigh = s.xcntHigh

/-- A read command answers `v` on `host_rdata` and leaves every register alone (20_memory.md R67). -/
def Reads (i : Instr) (s : State) (v : Word) : Prop :=
  exec i s = .next { s with hostRdata := v }

/-- The increment a `SEG_EMIT` uses; 0 where none exists, which no state that satisfies `Inv` meets. -/
def incAt (c : Config) (seg : Segment) (i : Nat) : Word :=
  match c.images with
  | .segmented t => (t.inc seg)[i]?.getD 0
  | .concatenated _ => 0

/-- The envelope code a `SEG_EMIT` uses; 0 where none exists. -/
def envAt (c : Config) (seg : Segment) (i : Nat) : EnvCode :=
  match c.images with
  | .segmented t => (t.env seg)[i]?.getD 0
  | .concatenated _ => 0

/-- The signed sine entry at an index; 0 where none exists. -/
def sineAt (c : Config) (k : Nat) : Int :=
  match c.images with
  | .segmented t => (t.sine[k]?.getD 0).toInt
  | .concatenated _ => 0

/-- The buffer entry a `CAT_EMIT` uses; 0 where none exists. -/
def pcmAt (c : Config) (i : Nat) : Nat :=
  match c.images with
  | .segmented _ => 0
  | .concatenated pcm => (pcm[i]?.getD 0).toNat

/-- The phase that a `SEG_EMIT` writes (46_cycle_step.md R280). -/
def r280Phase (s : State) : Word :=
  BitVec.ofNat 32 ((s.phase.toNat + (incAt s.cfg s.seg s.idx.toNat).toNat) % 2 ^ 32)

/-- The magnitude that an emitting tick sends (46_cycle_step.md R280). -/
def r280Mag (s : State) : Nat :=
  match s.cfg.policy with
  | .segmented =>
    ((((sineAt s.cfg ((r280Phase s).toNat / 2 ^ s.cfg.shift) + 2048) *
      ((envAt s.cfg s.seg s.idx.toNat).toNat : Int) + 2 ^ 14) / 2 ^ 15) % 4096).toNat
  | .concatenated => pcmAt s.cfg s.idx.toNat

/-- The delay that the tick operation of the edge names (44_timer.md R228). -/
def r280Delay (s : State) : Nat :=
  if s.idx.toNat < s.len then s.cfg.periodUs
  else
    match s.cfg.policy, s.seg with
    | .segmented, .swoop => s.cfg.periodUs
    | .segmented, .chirp => s.cfg.periodUs + s.cfg.restUs
    | .concatenated, _ => s.cfg.periodUs + s.cfg.restUs

/-- The state after an edge with `rst = 0`, each register's next value from pre-edge values alone
(46_cycle_step.md R280; the writers are those of 10_state.md R47). The count of `XCNT` is written as one
number, of which the register holds 24 bits and `xcntHigh` the part above them (assumption 5). In a state
that breaks 10_state.md R43 a later block of R280 wins over an earlier one (assumption 7). -/
def r280Run (s : State) : State :=
  let wr := s.input.we = true ∧ s.input.addr = 0
  let enSet := wr ∧ s.input.wdata.getLsbD 0 = true ∧ s.enable = false
  let dis := wr ∧ s.input.wdata.getLsbD 0 = false ∧ s.enable = true
  let fire := s.armed = true ∧ s.time = s.alarm ∧ ¬dis
  let start := s.enable = true ∧ s.pending = true ∧ s.busy = false ∧ ¬dis
  let emits := start ∧ s.idx.toNat < s.len
  let flips := start ∧ ¬s.idx.toNat < s.len
  let segEmits := emits ∧ s.cfg.policy = .segmented
  let segFlips := flips ∧ s.cfg.policy = .segmented
  let wraps := s.presc = s.cfg.clkPerUs - 1
  let lastCycle := s.busy = true ∧ frameCycle s = s.cfg.xferCycles - 1
  let count := if emits ∨ lastCycle then 0 else if s.busy = true then frameCycle s + 1 else frameCycle s
  { cfg := s.cfg
    phase := if segEmits then r280Phase s else s.phase
    seg := if segFlips then (if s.seg = .swoop then .chirp else .swoop) else s.seg
    idx := if emits then BitVec.ofNat 24 (s.idx.toNat + 1) else if flips then 0 else s.idx
    time := if wraps then BitVec.ofNat 32 ((s.time.toNat + 1) % 2 ^ 32) else s.time
    presc := if wraps then 0 else s.presc + 1
    alarm :=
      if enSet then BitVec.ofNat 32 ((s.time.toNat + s.cfg.periodUs) % 2 ^ 32)
      else if start then BitVec.ofNat 32 ((s.time.toNat + r280Delay s) % 2 ^ 32)
      else s.alarm
    armed := if dis then false else if enSet ∨ start then true else if fire then false else s.armed
    pending := if dis ∨ enSet ∨ start then false else if fire then true else s.pending
    enable := if dis then false else if enSet then true else s.enable
    busy := if emits then true else if lastCycle then false else s.busy
    xcnt := BitVec.ofNat 24 (count % 2 ^ 24)
    lastWord :=
      if emits then BitVec.ofNat 16 (s.cfg.ctrlNibble.toNat * 2 ^ 12 + r280Mag s) else s.lastWord
    valid := if emits then true else s.valid
    probePulse := decide flips
    missed :=
      if start ∧ s.time ≠ s.alarm then BitVec.ofNat 32 (min (s.missed.toNat + 1) (2 ^ 32 - 1))
      else s.missed
    hostRdata := portRdata s
    inputs := s.inputs.tail
    xcntHigh := count / 2 ^ 24 }

/-- The next-state function of 46_cycle_step.md R280. -/
def r280 (s : State) : State :=
  if s.input.rst then { State.resetOf s.cfg s.inputs.tail with hostRdata := portRdata s }
  else r280Run s

end Sys2Proof.Machine
end

