-- ==== Sys2Proof/Certificates/Slice0/Obligations.lean ====
section
/-! DEFINITION. The statements for the provers. Each docstring names the rules of spec/ that it formalises, or the
sections that it rests on. -/

open Sys2Proof Sys2Proof.Machine

/-! ### Encodings -/

/-- Words written out from 30_encoding.md R85, R87 to R89 decode to the operations they stand for. -/
def Obligations.SpecWordsDecode : Prop :=
  decode (.ticksel 0b000) = .segEmit .swoop ∧ decode (.ticksel 0b010) = .segEmit .chirp ∧
  decode (.ticksel 0b001) = .segFlipS2C ∧ decode (.ticksel 0b011) = .segFlipC2SRest ∧
  decode (.ticksel 0b100) = .catEmit .swoop ∧ decode (.ticksel 0b101) = .catWrapRest .swoop ∧
  decode (.hostRd 0b10001) = .rdStatus ∧ decode (.hostRd 0b11100) = .rdCfgRest ∧
  decode (.hostRd 0b11111) = .rdRsvdEF 0xF ∧ decode (.hostRd 0b00101) = .rdNone 0x5 ∧
  decode (.hostWr 0b10000 0xFFFFFFFF) = .wrCtrl 0xFFFFFFFF ∧
  decode (.hostWr 0b10110 0x1) = .wrIgn47 0x6 0x1 ∧ decode (.hostWr 0b01111 0x2) = .wrNone 0xF 0x2

/-- 30_encoding.md R85 with R86: the tick selector decodes by match and mask, all eight values. -/
def Obligations.TickSelectorDecodesByMatchAndMask : Prop :=
  ∀ b : BitVec 3,
    (b &&& 0b101 = 0b000 ↔ ∃ x, decode (.ticksel b) = .segEmit x) ∧
    (b &&& 0b111 = 0b001 ↔ decode (.ticksel b) = .segFlipS2C) ∧
    (b &&& 0b111 = 0b011 ↔ decode (.ticksel b) = .segFlipC2SRest) ∧
    (b &&& 0b101 = 0b100 ↔ ∃ x, decode (.ticksel b) = .catEmit x) ∧
    (b &&& 0b101 = 0b101 ↔ ∃ x, decode (.ticksel b) = .catWrapRest x)

/-- 30_encoding.md R87, R88, R89: the host commands decode by match and mask, for every word and every data
operand, and the operands are the address field and the data. -/
def Obligations.HostCommandsDecodeByMatchAndMask : Prop :=
  ∀ (b : BitVec 5) (d : Word),
    (b &&& 0x10 = 0x00 → decode (.hostRd b) = .rdNone (b.setWidth 4) ∧
      decode (.hostWr b d) = .wrNone (b.setWidth 4) d) ∧
    (b &&& 0x1F = 0x10 → decode (.hostRd b) = .rdCtrl ∧ decode (.hostWr b d) = .wrCtrl d) ∧
    (b &&& 0x1F = 0x11 → decode (.hostRd b) = .rdStatus ∧ decode (.hostWr b d) = .wrIgn1 d) ∧
    (b &&& 0x1F = 0x12 → decode (.hostRd b) = .rdPhase) ∧
    (b &&& 0x1F = 0x13 → decode (.hostRd b) = .rdIndex) ∧
    (b &&& 0x1F = 0x14 → decode (.hostRd b) = .rdTime) ∧
    (b &&& 0x1F = 0x15 → decode (.hostRd b) = .rdAlarm) ∧
    (b &&& 0x1F = 0x16 → decode (.hostRd b) = .rdMissed) ∧
    (b &&& 0x1F = 0x17 → decode (.hostRd b) = .rdLastWord) ∧
    (b &&& 0x1F = 0x18 → decode (.hostRd b) = .rdCfg0) ∧
    (b &&& 0x1F = 0x19 → decode (.hostRd b) = .rdCfgLenA) ∧
    (b &&& 0x1F = 0x1A → decode (.hostRd b) = .rdCfgLenB) ∧
    (b &&& 0x1F = 0x1B → decode (.hostRd b) = .rdCfgPeriod) ∧
    (b &&& 0x1F = 0x1C → decode (.hostRd b) = .rdCfgRest) ∧
    (b &&& 0x1F = 0x1D → decode (.hostRd b) = .rdRsvdD) ∧
    (b &&& 0x1E = 0x1E → decode (.hostRd b) = .rdRsvdEF (b.setWidth 4)) ∧
    (b &&& 0x1E = 0x12 → decode (.hostWr b d) = .wrIgn23 (b.setWidth 4) d) ∧
    (b &&& 0x1C = 0x14 → decode (.hostWr b d) = .wrIgn47 (b.setWidth 4) d) ∧
    (b &&& 0x18 = 0x18 → decode (.hostWr b d) = .wrIgn8F (b.setWidth 4) d)

/-- Decoding the encoding of a well-formed operation gives it back, with every operand at every value its
row admits. -/
def Obligations.DecodeUndoesEncode : Prop :=
  ∀ i : Instr, i.wf = true → decode (encode i) = i

/-- Every word decodes to a well-formed operation, and encoding that operation gives the word back: each
word has one meaning (30_encoding.md section 7). -/
def Obligations.EncodeUndoesDecode : Prop :=
  ∀ r : RawWord, (decode r).wf = true ∧ encode (decode r) = r

/-- 30_encoding.md R102: the input vector holds every port bit, and the two command words are its slices
`[host_re, host_addr]` and `[host_we, host_addr]`. -/
def Obligations.InputVectorHoldsEveryPortBit : Prop :=
  (∀ i : HostInput, HostInput.ofVector i.toVector = i) ∧
  (∀ v : BitVec 39, (HostInput.ofVector v).toVector = v) ∧
  ∀ i : HostInput,
    i.rdWord = BitVec.ofBool i.re ++ i.addr ∧ i.wrWord = BitVec.ofBool i.we ++ i.addr ∧
    i.toVector = BitVec.ofBool i.rst ++ BitVec.ofBool i.we ++ BitVec.ofBool i.re ++ i.addr ++ i.wdata

/-- 45_host.md section 3: one cycle can carry any well-formed read together with any well-formed write of
the same address. -/
def Obligations.OneCycleCarriesAReadAndAWrite : Prop :=
  ∀ rd wr : Instr, cycleWf rd wr = true →
    ∃ i : HostInput, i.rst = false ∧ i.readCommand = rd ∧ i.writeCommand = wr

/-! ### Configurations -/

/-- 00_scope.md section 4: every configuration that a state can hold meets the constraints R10 (a) to (g),
the list lengths of (g) being those of 10_state.md R40; and a block is built only from a record whose
increments, where they are generated, meet (h): for the real frequencies of 40_tables.md R116 and R117
every rounded entry lies in `[0, 2^32 - 1]` (and, the model's choice, the rate is not 0, assumption 23). The
block holds the record's own parameters and images. -/
def Obligations.BuiltConfigurationsMeetTheConstraints : Prop :=
  (∀ c : Config,
    1 ≤ c.periodUs ∧ c.periodUs + c.restUs ≤ 2 ^ 32 - 1 ∧ 2 ≤ c.clkPerUs ∧ 1 ≤ c.sclkHalf ∧
    c.clkPerUs ≤ 40 * c.sclkHalf ∧ 2 ≤ c.sineBits ∧ c.sineBits ≤ 16 ∧ 1 ≤ c.rampLen ∧
    2 * c.rampLen ≤ c.swoopLen ∧ 2 * c.rampLen ≤ c.chirpLen ∧
    match c.images with
    | .segmented t =>
      c.swoopLen ≤ 2 ^ 24 - 1 ∧ c.chirpLen ≤ 2 ^ 24 - 1 ∧ t.sine.length = 2 ^ c.sineBits ∧
      t.incSwoop.length = c.swoopLen ∧ t.incChirp.length = c.chirpLen ∧
      t.envSwoop.length = c.swoopLen ∧ t.envChirp.length = c.chirpLen
    | .concatenated pcm =>
      c.swoopLen + c.restLen + c.chirpLen ≤ 2 ^ 24 - 1 ∧
      pcm.length = c.swoopLen + c.restLen + c.chirpLen) ∧
  ∀ (r : ConfigRecord) [Decidable r.IncrementsFit] (c : Config), Config.build r = .ok c →
    c.toParams = r.toParams ∧
    (r.increments = .generated → r.sampleRateHz ≠ 0 ∧
      (∀ i n, i < r.swoopLen →
        IncrementIs r.sampleRateHz (swoopHz r.toWaveform r.swoopLen i) n → 0 ≤ n ∧ n ≤ 2 ^ 32 - 1) ∧
      (∀ i n, i < r.chirpLen →
        IncrementIs r.sampleRateHz (chirpHz r.toWaveform i) n → 0 ≤ n ∧ n ≤ 2 ^ 32 - 1))

/-- 60_exceptions.md section 1: a configuration record that breaks a constraint gives no machine; it is
refused under the constraint's name before any step, and every other record gives a machine in its reset
state. -/
def Obligations.BrokenParametersAreRefusedByName : Prop :=
  ∀ (r : ConfigRecord) [Decidable r.IncrementsFit] (script : List HostInput),
    (∀ k, r.broken = some k → State.boot r script = .refused (.configuration k)) ∧
    (r.broken = none →
      ∃ c : Config, c.toParams = r.toParams ∧ State.boot r script = .next (State.resetOf c script))

/-- 40_tables.md section 3 (R118), 00_scope.md section 4 (R10 (h)): a record whose tables are to be
generated, and whose parameters break none of (a) to (g), is refused under `incrementRange` exactly when a
generator, over the real numbers, refuses its table: an entry falls outside `[0, 2^32 - 1]`, or the rate is
0 (the latter is the model's choice, assumption 23; so is reading the range on the rounded entry,
assumption 22). -/
def Obligations.OutOfRangeIncrementsAreRefused : Prop :=
  ∀ (r : ConfigRecord) [Decidable r.IncrementsFit], r.increments = .generated →
    r.toParams.broken = none →
    (r.broken = some .incrementRange ↔
      SwoopGenerates r.toWaveform r.sampleRateHz r.swoopLen (.error .incrementRange) ∨
      ChirpGenerates r.toWaveform r.sampleRateHz r.chirpLen (.error .incrementRange))

/-! ### Datapath and tables -/

/-- 41_phase_sine.md R143: the magnitude is `round(u * e / 2^15)`, ties upward, masked to 12 bits; it is 0
for a code of 0 and `u` for a code of 0x8000. -/
def Obligations.MagnitudeRoundsTheScaledSample : Prop :=
  ∀ (raw : Int) (e : EnvCode), -2048 ≤ raw → raw ≤ 2047 →
    (mag raw e : Int) = ⌊((raw + 2048 : Int) : ℚ) * (e.toNat : ℚ) / 2 ^ 15 + 1 / 2⌋ % 4096 ∧
    mag raw 0 = 0 ∧ (mag raw 0x8000 : Int) = raw + 2048

/-- 40_tables.md section 4 (R120, R121): a generated code is the envelope shape times 2^15, rounded. -/
def Obligations.EnvelopeCodeRoundsTheShape : Prop :=
  ∀ len ramp i : Nat, 1 ≤ ramp → 2 * ramp ≤ len → i < len →
    ((envCode len ramp i).toNat : Int) = roundHalfAway (envShape len ramp i * 2 ^ 15) ∧
    (envTable len ramp)[i]? = some (envCode len ramp i)

/-- 40_tables.md section 4 (R122): a generated envelope starts and ends at 0, is 0x8000 in the body, never
exceeds 0x8000, and, when the ramp has at most 32768 samples, rises and falls strictly and is 0x8000 in
the body alone; for a longer ramp neighbouring codes may be equal, and from 65536 samples on a code of
the rise may be 0x8000 (so R122's "exactly in the body" is read for the shorter ramps). -/
def Obligations.EnvelopeRisesHoldsAndFalls : Prop :=
  ∀ len ramp : Nat, 1 ≤ ramp → 2 * ramp ≤ len →
    envCode len ramp 0 = 0 ∧ envCode len ramp (len - 1) = 0 ∧
    (∀ i, ramp ≤ i → i < len - ramp → envCode len ramp i = 0x8000) ∧
    (∀ i, i < len → (envCode len ramp i).toNat ≤ 0x8000) ∧
    (ramp ≤ 32768 →
      (∀ i, i + 1 < ramp → (envCode len ramp i).toNat < (envCode len ramp (i + 1)).toNat) ∧
      (∀ i, len - ramp ≤ i → i + 1 < len →
        (envCode len ramp (i + 1)).toNat < (envCode len ramp i).toNat) ∧
      (∀ i, i < len → envCode len ramp i = 0x8000 → ramp ≤ i ∧ i < len - ramp)) ∧
    ∃ i, i + 1 < 65536 ∧ envCode 131072 65536 i = envCode 131072 65536 (i + 1)

/-- 40_tables.md R128: for a generated sine entry and a generated code, the magnitude differs from the
source's real-valued formula by at most 1, and not at all where the code is exact. -/
def Obligations.MagnitudeWithinOneOfTheRealFormula : Prop :=
  ∀ (raw : Int) (len ramp i : Nat), -2047 ≤ raw → raw ≤ 2047 → 1 ≤ ramp → 2 * ramp ≤ len → i < len →
    |(mag raw (envCode len ramp i) : Int) -
      roundHalfAway (((raw + 2048 : Int) : ℚ) * envShape len ramp i)| ≤ 1 ∧
    (((envCode len ramp i).toNat : ℚ) = envShape len ramp i * 2 ^ 15 →
      (mag raw (envCode len ramp i) : Int) =
        roundHalfAway (((raw + 2048 : Int) : ℚ) * envShape len ramp i))

/-- 40_tables.md section 5 (R125, R126): every REST entry of the rendered buffer is 0 and gives the word
`CTRL_NIBBLE << 12`, and each SWOOP entry is the magnitude that `SEG_EMIT` sends from the phase left by
the entries before it, starting from phase 0. -/
def Obligations.RenderedBufferMatchesTheSegmentedWaveform : Prop :=
  ∀ (c : Config) (t : SegmentTables), c.images = .segmented t →
    (∀ k, k < c.restLen → (pcmTable c.toParams t)[c.swoopLen + k]? = some 0 ∧
      (dacWord c.ctrlNibble 0).toNat = c.ctrlNibble.toNat * 2 ^ 12) ∧
    (∀ k, k < c.swoopLen →
      ∃ (ph : Word) (w : DacWord) (m : Sample),
        segSample c .swoop k (phaseAfter 0 (t.incSwoop.take k)) = .ok (ph, w) ∧
        ph = phaseAfter 0 (t.incSwoop.take (k + 1)) ∧
        (pcmTable c.toParams t)[k]? = some m ∧ w = dacWord c.ctrlNibble m.toNat)

/-- 41_phase_sine.md R146: after a run of `m` samples of a segment the phase is the start phase plus the
sum of the increments consumed, modulo 2^32, and the index has advanced by `m`. -/
def Obligations.PhaseIsTheSumOfTheIncrements : Prop :=
  ∀ (s : State) (tb : SegmentTables) (m : Nat), s.cfg.images = .segmented tb →
    s.idx.toNat + m ≤ s.cfg.segmentLen s.seg →
    ∃ t, repeatExec (.segEmit s.seg) m s = .next t ∧
      t.phase.toNat =
        (s.phase.toNat + (((tb.inc s.seg).drop s.idx.toNat).take m |>.map BitVec.toNat).sum) % 2 ^ 32 ∧
      t.idx.toNat = s.idx.toNat + m ∧ t.seg = s.seg ∧ t.cfg = s.cfg

/-! ### The tick operations -/

/-- 42_sequencer.md R163: `SEG_EMIT` adds the active segment's increment to the phase, looks up the sine
entry of the new phase, scales it by the envelope code of the same index, sends the word, and advances
the index, with the common effects; `SEG` and everything else stay. -/
def Obligations.SegEmitSendsOneSample : Prop :=
  ∀ (s : State) (x : Segment) (tb : SegmentTables), s.cfg.images = .segmented tb →
    s.idx.toNat < s.cfg.segmentLen s.seg →
    ∃ (inc : Word) (e : EnvCode) (raw : Sample) (t : State),
      exec (.segEmit x) s = .next t ∧
      (tb.inc s.seg)[s.idx.toNat]? = some inc ∧ (tb.env s.seg)[s.idx.toNat]? = some e ∧
      t.phase.toNat = (s.phase.toNat + inc.toNat) % 2 ^ 32 ∧
      tb.sine[t.phase.toNat / 2 ^ (32 - s.cfg.sineBits)]? = some raw ∧
      (t.lastWord.toNat : Int) =
        s.cfg.ctrlNibble.toNat * 2 ^ 12 + ((raw.toInt + 2048) * e.toNat + 2 ^ 14) / 2 ^ 15 % 4096 ∧
      t.idx.toNat = s.idx.toNat + 1 ∧ t.valid = true ∧ t.busy = true ∧ t.xcnt = 0 ∧
      t.xcntHigh = 0 ∧ TickEffects s.cfg.periodUs false s t ∧
      t = { s with
        phase := t.phase, idx := t.idx, lastWord := t.lastWord, valid := t.valid, busy := t.busy
        xcnt := t.xcnt, xcntHigh := t.xcntHigh, pending := t.pending, armed := t.armed
        alarm := t.alarm, missed := t.missed, probePulse := t.probePulse }

/-- 42_sequencer.md R164: `SEG_FLIP_S2C` turns to the start of CHIRP and sends nothing. -/
def Obligations.SegFlipS2CTurnsToChirp : Prop :=
  ∀ s : State, ∃ t, exec .segFlipS2C s = .next t ∧ t.idx = 0 ∧ t.seg = .chirp ∧
    TickEffects s.cfg.periodUs true s t ∧ NothingSent s t

/-- 42_sequencer.md R165: `SEG_FLIP_C2S_REST` turns to the start of SWOOP, extends the deadline by the
rest, and sends nothing. -/
def Obligations.SegFlipC2SRestTurnsToSwoopAndRests : Prop :=
  ∀ s : State, ∃ t, exec .segFlipC2SRest s = .next t ∧ t.idx = 0 ∧ t.seg = .swoop ∧
    TickEffects (s.cfg.periodUs + s.cfg.restUs) true s t ∧ NothingSent s t

/-- 42_sequencer.md R166: `CAT_EMIT` sends the buffer entry at the index and advances the index, with the
common effects; `PHASE`, `SEG` and everything else stay. -/
def Obligations.CatEmitSendsOneEntry : Prop :=
  ∀ (s : State) (x : Segment) (pcm : List Sample), s.cfg.images = .concatenated pcm →
    s.idx.toNat < s.cfg.songLen →
    ∃ (m : Sample) (t : State),
      exec (.catEmit x) s = .next t ∧ pcm[s.idx.toNat]? = some m ∧
      t.lastWord.toNat = s.cfg.ctrlNibble.toNat * 2 ^ 12 + m.toNat ∧
      t.idx.toNat = s.idx.toNat + 1 ∧ t.valid = true ∧ t.busy = true ∧ t.xcnt = 0 ∧
      t.xcntHigh = 0 ∧ TickEffects s.cfg.periodUs false s t ∧
      t = { s with
        idx := t.idx, lastWord := t.lastWord, valid := t.valid, busy := t.busy, xcnt := t.xcnt
        xcntHigh := t.xcntHigh, pending := t.pending, armed := t.armed, alarm := t.alarm
        missed := t.missed, probePulse := t.probePulse }

/-- 42_sequencer.md R167: `CAT_WRAP_REST` returns to the start of the buffer, extends the deadline by the
rest, and sends nothing; `SEG` stays. -/
def Obligations.CatWrapRestReturnsToTheStartAndRests : Prop :=
  ∀ (s : State) (x : Segment), ∃ t, exec (.catWrapRest x) s = .next t ∧ t.idx = 0 ∧ t.seg = s.seg ∧
    TickEffects (s.cfg.periodUs + s.cfg.restUs) true s t ∧ NothingSent s t

/-- The model's choice where an emitting operation is executed outside its tables, which no edge does
(assumption 6): it stops with a fault that names the memory, and nothing is sent. -/
def Obligations.EmittingOutsideTheTablesFaults : Prop :=
  (∀ (s : State) (x : Segment), s.cfg.policy = .concatenated ∨ s.cfg.segmentLen s.seg ≤ s.idx.toNat →
    exec (.segEmit x) s = .fault (.romOutOfRange (incRom s.seg) s.idx.toNat)) ∧
  (∀ (s : State) (x : Segment), s.cfg.policy = .segmented ∨ s.cfg.songLen ≤ s.idx.toNat →
    exec (.catEmit x) s = .fault (.romOutOfRange .pcmRom s.idx.toNat))

/-- 44_timer.md R229: lateness changes nothing but the count. Two states that differ only in `ALARM` take
every tick operation alike, but for `MISSED`. -/
def Obligations.LatenessChangesOnlyTheCount : Prop :=
  ∀ (b : BitVec 3) (s t : State) (a : Word), exec (decode (.ticksel b)) s = .next t →
    ∃ u, exec (decode (.ticksel b)) { s with alarm := a } = .next u ∧ u = { t with missed := u.missed } ∧
      (s.time = s.alarm → t.missed = s.missed) ∧
      (s.time ≠ s.alarm → t.missed.toNat = min (s.missed.toNat + 1) (2 ^ 32 - 1))

/-! ### The host commands -/

/-- 45_host.md R251, R253 to R257: the reads of `CTRL`, `PHASE`, `INDEX`, `TIME`, `ALARM` and `MISSED`
answer those registers, zero-extended, and change nothing. -/
def Obligations.RegisterReadsAnswerTheRegister : Prop :=
  ∀ s : State,
    (∃ v, Reads .rdCtrl s v ∧ v.toNat = s.enable.toNat) ∧
    Reads .rdPhase s s.phase ∧
    (∃ v, Reads .rdIndex s v ∧ v.toNat = s.idx.toNat) ∧
    Reads .rdTime s s.time ∧ Reads .rdAlarm s s.alarm ∧ Reads .rdMissed s s.missed

/-- 45_host.md R252, in the layout of 30_encoding.md R92: the bits of `STATUS`, as `RD_STATUS` answers them;
the read changes nothing. -/
def Obligations.StatusReadAnswersEachBit : Prop :=
  ∀ s : State, ∃ v, Reads .rdStatus s v ∧
    v.getLsbD 0 = s.enable ∧ v.getLsbD 1 = s.busy ∧ v.getLsbD 2 = s.pending ∧
    v.getLsbD 3 = s.armed ∧ v.getLsbD 4 = decide (s.seg = .chirp) ∧
    v.getLsbD 5 = decide (s.cfg.policy = .concatenated) ∧
    v.getLsbD 6 = (s.busy || s.probePulse) ∧ v.getLsbD 7 = s.valid ∧ v.toNat < 2 ^ 8

/-- 45_host.md R258, in the layout of 30_encoding.md R94: the fields of `LAST_WORD`, as `RD_LAST_WORD`
answers them; the read changes nothing. -/
def Obligations.LastWordReadAnswersWordAndValid : Prop :=
  ∀ s : State, ∃ v, Reads .rdLastWord s v ∧ v.setWidth 16 = s.lastWord ∧ v.getLsbD 16 = s.valid ∧
    v.toNat < 2 ^ 17

/-- 45_host.md R259 to R263, in the layout of 30_encoding.md R95, R96: the configuration words, as the five
`CFG` reads answer them; the reads change nothing. -/
def Obligations.ConfigurationReadsAnswerTheParameters : Prop :=
  ∀ s : State,
    (∃ v, Reads .rdCfg0 s v ∧ v.getLsbD 0 = decide (s.cfg.policy = .concatenated) ∧
      v.extractLsb' 1 7 = 0 ∧ (v.extractLsb' 8 5).toNat = s.cfg.sineBits ∧ v.extractLsb' 13 3 = 0 ∧
      v.extractLsb' 16 4 = s.cfg.ctrlNibble ∧ v.extractLsb' 20 12 = 0) ∧
    (∃ v, Reads .rdCfgLenA s v ∧
      (s.cfg.policy = .segmented → v.toNat = s.cfg.swoopLen) ∧
      (s.cfg.policy = .concatenated → v.toNat = s.cfg.swoopLen + s.cfg.restLen + s.cfg.chirpLen)) ∧
    (∃ v, Reads .rdCfgLenB s v ∧
      (s.cfg.policy = .segmented → v.toNat = s.cfg.chirpLen) ∧
      (s.cfg.policy = .concatenated → v = 0)) ∧
    (∃ v, Reads .rdCfgPeriod s v ∧ v.toNat = s.cfg.periodUs) ∧
    (∃ v, Reads .rdCfgRest s v ∧ v.toNat = s.cfg.restUs)

/-- 45_host.md R264, R267: a read of a reserved word, and a cycle without a read, answer 0 and change
nothing. -/
def Obligations.ReservedAndAbsentReadsAnswerZero : Prop :=
  ∀ (s : State) (a : BitVec 4), Reads .rdRsvdD s 0 ∧ Reads (.rdRsvdEF a) s 0 ∧ Reads (.rdNone a) s 0

/-- 45_host.md R265: `WR_CTRL` enables, disables or does nothing, by bit 0 of the data alone. -/
def Obligations.CtrlWriteEnablesOrDisables : Prop :=
  ∀ (s : State) (d : Word),
    (d.getLsbD 0 = true → s.enable = false → ∃ t, exec (.wrCtrl d) s = .next t ∧
      t = { s with enable := true, armed := true, pending := false, alarm := t.alarm } ∧
      t.alarm.toNat = (s.time.toNat + s.cfg.periodUs) % 2 ^ 32) ∧
    (d.getLsbD 0 = false → s.enable = true →
      exec (.wrCtrl d) s = .next { s with enable := false, armed := false, pending := false }) ∧
    (d.getLsbD 0 = s.enable → exec (.wrCtrl d) s = .next s)

/-- 45_host.md R266, R267: a write to any other word, and a cycle without a write, have no effect. -/
def Obligations.OtherWritesHaveNoEffect : Prop :=
  ∀ (s : State) (a : BitVec 4) (d : Word),
    exec (.wrIgn1 d) s = .next s ∧ exec (.wrIgn23 a d) s = .next s ∧
    exec (.wrIgn47 a d) s = .next s ∧ exec (.wrIgn8F a d) s = .next s ∧
    exec (.wrNone a d) s = .next s

/-! ### One edge -/

/-- An edge runs the operations its words decode to: the read command, then (with `rst = 0`) the tick
operation of the selector if the edge starts a tick, the write command, and the always-running logic
around them. The order in which they are composed is the model's (assumption 7): 46_cycle_step.md R280
gives none, since no register has two writers at one edge. -/
def Obligations.StepRunsTheDecodedOperations : Prop :=
  ∀ (s : State) (rd tick wr : Instr),
    decode (.hostRd s.input.rdWord) = rd → decode (.ticksel (tickSelector s)) = tick →
    decode (.hostWr s.input.wrWord s.input.wdata) = wr →
    (s.input.rst = true → step s = andThen (exec rd s) fun s1 => .next (applyReset (nextCycle s1))) ∧
    (s.input.rst = false → startsTick s = true →
      step s = andThen (exec rd s) fun s1 => andThen (exec tick (beforeTick s1)) fun s2 =>
        andThen (exec wr s2) fun s3 => .next (nextCycle (timeBase s3))) ∧
    (s.input.rst = false → startsTick s = false →
      step s = andThen (exec rd s) fun s1 =>
        andThen (exec wr (beforeTick s1)) fun s3 => .next (nextCycle (timeBase s3)))

/-- 46_cycle_step.md (R280): the step, composed of its operations, is the register-by-register next-state
function, from every state and for every input. In particular no step faults or is refused. Two clauses are
the model's: in a state that breaks 10_state.md R43 the later block of R280 wins (assumption 7), and what a
frame's count has beyond the 24 bits of `XCNT` is counted in `xcntHigh` (assumption 5). -/
def Obligations.StepIsTheNextStateFunction : Prop :=
  ∀ s : State, step s = .next (r280 s)

/-- 46_cycle_step.md section 1 (R284): every step keeps the invariants R43 and R44 and the counter
ranges. -/
def Obligations.EveryStepKeepsTheInvariants : Prop :=
  ∀ s t : State, Inv s → step s = .next t → Inv t

/-- 10_state.md R43: after any sequence of edges from reset, for every configuration and every host script,
(a) to (g) hold, and the run never stops. -/
def Obligations.InvariantsHoldAfterAnyEdgesFromReset : Prop :=
  ∀ (c : Config) (script : List HostInput) (k : Nat),
    ∃ t, After k (State.resetOf c script) t ∧
      (t.armed = true → t.enable = true) ∧ (t.pending = true → t.enable = true) ∧
      ¬(t.armed = true ∧ t.pending = true) ∧
      (t.enable = true → (t.armed = true ∧ t.pending = false) ∨ (t.armed = false ∧ t.pending = true)) ∧
      (t.busy = false → t.xcnt = 0) ∧ (t.busy = true → t.valid = true) ∧
      (c.policy = .concatenated → t.seg = .swoop ∧ t.phase = 0) ∧ t.cfg = c

/-- The invariants hold in the reset state of every configuration, whatever the host script. -/
def Obligations.ResetStateMeetsTheInvariants : Prop :=
  ∀ (c : Config) (script : List HostInput),
    Inv (State.resetOf c script) ∧ FireAligned (State.resetOf c script) ∧
    OnTime (State.resetOf c script) ∧ State.reset = State.resetOf segmentedConfig []

/-- 44_timer.md section 3 (R225): at a fire edge the prescaler is 0, since every step keeps the alignment
of the armed deadline. -/
def Obligations.EveryStepKeepsTheFireAligned : Prop :=
  ∀ s t : State, FireAligned s → step s = .next t → FireAligned t

/-- 70_reset_and_hazards.md section 2 (R333 (a)): where the frame fits the period, no tick is ever late,
whatever the host does: every step keeps the frames on time and leaves `MISSED` alone. -/
def Obligations.NoTickIsLateWhereTheFrameFits : Prop :=
  ∀ s t : State, FrameFits s.cfg → Inv s → FireAligned s → OnTime s → step s = .next t →
    FrameFits t.cfg ∧ OnTime t ∧ (s.input.rst = false → t.missed = s.missed)

/-- 10_state.md R45, 70_reset_and_hazards.md R321 (and R320): an edge with `rst = 1` gives every register its reset
value, whatever the state and the other inputs, and the outputs their reset levels. -/
def Obligations.ResetEdgeLoadsTheResetValues : Prop :=
  ∀ s : State, s.input.rst = true → ∃ t, step s = .next t ∧
    t.phase = 0 ∧ t.seg = .swoop ∧ t.idx = 0 ∧ t.time = 0 ∧ t.presc = 0 ∧ t.alarm = 0 ∧
    t.armed = false ∧ t.pending = false ∧ t.enable = false ∧ t.busy = false ∧ t.xcnt = 0 ∧
    t.lastWord = 0 ∧ t.valid = false ∧ t.probePulse = false ∧ t.missed = 0 ∧
    t.cfg = s.cfg ∧ t.inputs = s.inputs.tail ∧ t.xcntHigh = 0 ∧ pins t = ⟨true, false, false, false⟩

/-- 45_host.md R250, R269: every edge, a reset edge too, leaves in `hostRdata` what the port showed in its
cycle: the addressed word of the pre-edge registers, or 0 without a read. (That the port value is kept
in a field is the model's, assumption 2.) -/
def Obligations.StepKeepsThePortValue : Prop :=
  ∀ s t : State, step s = .next t → t.hostRdata = portRdata s ∧ t.cfg = s.cfg

/-- 20_memory.md R67: reads have no effect. Changing the read enable of the coming cycle changes nothing
after the edge but the value read. -/
def Obligations.ReadsHaveNoSideEffect : Prop :=
  ∀ (s t : State) (i : HostInput) (is : List HostInput) (re : Bool), s.inputs = i :: is →
    step s = .next t →
    ∃ u, step { s with inputs := { i with re := re } :: is } = .next u ∧
      u = { t with hostRdata := u.hostRdata }

/-- 10_state.md R46, 45_host.md R266: a write that is not to `CTRL`, or that writes the value `ENABLE`
already has, is as if there had been no write. -/
def Obligations.IneffectiveWritesAreAsNone : Prop :=
  ∀ (s : State) (i : HostInput) (is : List HostInput), s.inputs = i :: is →
    i.addr ≠ 0 ∨ i.wdata.getLsbD 0 = s.enable →
    step { s with inputs := { i with we := false } :: is } = step s

/-- 10_state.md R47: who writes each register at an edge with `rst = 0`. -/
def Obligations.OnlyTheNamedWritersWrite : Prop :=
  ∀ s t : State, s.input.rst = false → step s = .next t →
    (t.phase ≠ s.phase →
      startsTick s = true ∧ ∃ x, decode (.ticksel (tickSelector s)) = .segEmit x) ∧
    (t.seg ≠ s.seg → startsTick s = true ∧
      (decode (.ticksel (tickSelector s)) = .segFlipS2C ∨
       decode (.ticksel (tickSelector s)) = .segFlipC2SRest)) ∧
    (t.idx ≠ s.idx → startsTick s = true) ∧
    (t.time ≠ s.time → s.presc = s.cfg.clkPerUs - 1) ∧
    (t.alarm ≠ s.alarm → startsTick s = true ∨ enabling s = true) ∧
    (t.armed ≠ s.armed →
      startsTick s = true ∨ fires s = true ∨ enabling s = true ∨ disabling s = true) ∧
    (t.pending ≠ s.pending →
      startsTick s = true ∨ fires s = true ∨ enabling s = true ∨ disabling s = true) ∧
    (t.enable ≠ s.enable → enabling s = true ∨ disabling s = true) ∧
    (t.busy ≠ s.busy ∨ t.xcnt ≠ s.xcnt ∨ t.xcntHigh ≠ s.xcntHigh →
      s.busy = true ∨ (startsTick s = true ∧ s.idx.toNat < s.len)) ∧
    (t.lastWord ≠ s.lastWord ∨ t.valid ≠ s.valid → startsTick s = true ∧ s.idx.toNat < s.len) ∧
    (t.missed ≠ s.missed → startsTick s = true ∧ s.time ≠ s.alarm)

/-- 10_state.md R39: `MISSED` never falls but by reset; it rises by one, saturating, at the start edge of
a late tick and at no other. -/
def Obligations.MissedCountsLateTicksAndSaturates : Prop :=
  ∀ s t : State, s.input.rst = false → step s = .next t →
    t.missed.toNat =
      if startsTick s = true ∧ s.time ≠ s.alarm then min (s.missed.toNat + 1) (2 ^ 32 - 1)
      else s.missed.toNat

/-- 44_timer.md R231: a disabling write clears the three timer bits, suppresses the fire and the tick start
of its edge, keeps the datapath, the count and the deadline, and lets the frame go on, in its last cycle to
its end. -/
def Obligations.DisablingWriteStopsAtOnce : Prop :=
  ∀ s : State, s.input.rst = false → s.input.we = true → s.input.addr = 0 →
    s.input.wdata.getLsbD 0 = false → s.enable = true →
    ∃ t, step s = .next t ∧ t.enable = false ∧ t.armed = false ∧ t.pending = false ∧
      t.phase = s.phase ∧ t.seg = s.seg ∧ t.idx = s.idx ∧ t.missed = s.missed ∧
      t.lastWord = s.lastWord ∧ t.valid = s.valid ∧ t.alarm = s.alarm ∧ t.probePulse = false ∧
      (s.busy = true → frameCycle s + 1 < s.cfg.xferCycles →
        t.busy = true ∧ frameCycle t = frameCycle s + 1) ∧
      (s.busy = true → frameCycle s + 1 = s.cfg.xferCycles → t.busy = false)

/-- 44_timer.md R230: an enabling write arms a deadline one period ahead, and its edge starts no tick. -/
def Obligations.EnablingWriteArmsOnePeriodAhead : Prop :=
  ∀ s : State, s.input.rst = false → s.input.we = true → s.input.addr = 0 →
    s.input.wdata.getLsbD 0 = true → s.enable = false →
    ∃ t, step s = .next t ∧ t.enable = true ∧ t.armed = true ∧ t.pending = false ∧
      t.alarm.toNat = (s.time.toNat + s.cfg.periodUs) % 2 ^ 32 ∧
      t.phase = s.phase ∧ t.seg = s.seg ∧ t.idx = s.idx ∧ t.missed = s.missed

/-- 44_timer.md R224: at a fire edge the alarm is disarmed and a firing becomes pending; the deadline and
the waveform stay. -/
def Obligations.FireDisarmsAndBecomesPending : Prop :=
  ∀ s : State, Inv s → s.input.rst = false → s.armed = true → s.time = s.alarm →
    ¬(s.input.we = true ∧ s.input.addr = 0 ∧ s.input.wdata.getLsbD 0 = false) →
    ∃ t, step s = .next t ∧ t.armed = false ∧ t.pending = true ∧ t.alarm = s.alarm ∧
      t.phase = s.phase ∧ t.seg = s.seg ∧ t.idx = s.idx ∧ t.enable = s.enable

/-- 46_cycle_step.md R282: no register has two writers at one edge, since the events that write it exclude
each other. -/
def Obligations.EventsOfOneEdgeExcludeEachOther : Prop :=
  ∀ s : State, Inv s →
    ¬(fires s = true ∧ startsTick s = true) ∧
    (enabling s = true → fires s = false ∧ startsTick s = false) ∧
    (disabling s = true → fires s = false ∧ startsTick s = false ∧ enabling s = false) ∧
    (startsTick s = true → s.busy = false)

/-- 70_reset_and_hazards.md section 2 (R330): every tick moves the index, so that a host that reads the
index before and after another register sees that a tick fell between. -/
def Obligations.EveryTickMovesTheIndex : Prop :=
  ∀ s t : State, Inv s → s.input.rst = false → startsTick s = true → step s = .next t → t.idx ≠ s.idx

/-- 43_output.md R199: after the start edge of an emitting tick the probe is high by `BUSY` and not by
`PROBE_PULSE`; after that of a transition tick it is high by `PROBE_PULSE` alone; after any other edge
`PROBE_PULSE` is 0. -/
def Obligations.ProbeMarksEveryTick : Prop :=
  ∀ s t : State, s.input.rst = false → step s = .next t →
    (startsTick s = true → s.idx.toNat < s.len → t.busy = true ∧ t.probePulse = false ∧ probe t = true) ∧
    (startsTick s = true → s.len ≤ s.idx.toNat →
      t.busy = false ∧ t.probePulse = true ∧ probe t = true) ∧
    (startsTick s = false → t.probePulse = false ∧ probe t = t.busy)

/-! ### The serial frame -/

/-- 43_output.md R195, R197, from one cycle of a frame to the next: chip-select is low; the serial clock is
low in the first cycle, rises at the starts of half-periods 1, 3, …, 31 and nowhere else; at the `j`-th
rising edge, and in the cycle before it, the data pin holds bit `15 - j` of the word; in the hold both are
low. -/
def Obligations.SerialClockRisesOnceForEachBit : Prop :=
  ∀ s : State, s.busy = true → s.input.rst = false → frameCycle s + 1 < s.cfg.xferCycles →
    ∃ t, step s = .next t ∧ frameCycle t = frameCycle s + 1 ∧ dacCsN s = false ∧ dacCsN t = false ∧
    (frameCycle s = 0 → dacSclk s = false) ∧
    ((dacSclk s = false ∧ dacSclk t = true) ↔
      ∃ j, j ≤ 15 ∧ frameCycle t = s.cfg.sclkHalf * (2 * j + 1)) ∧
    (∀ j, j ≤ 15 → frameCycle t = s.cfg.sclkHalf * (2 * j + 1) →
      dacMosi s = s.lastWord.getLsbD (15 - j) ∧ dacMosi t = s.lastWord.getLsbD (15 - j)) ∧
    (32 * s.cfg.sclkHalf ≤ frameCycle t → dacSclk t = false ∧ dacMosi t = false)

/-- 43_output.md R194: a frame started at an edge keeps `BUSY` at 1 for exactly `XFER_CYCLES` cycles, for
every admitted `SCLK_HALF`, with the frame's count running from 0, whatever the host does short of a reset,
and its word stays. The count is that of `XCNT` wherever 24 bits hold it (10_state.md R35, assumption 5). -/
def Obligations.FrameLastsExactlyXferCycles : Prop :=
  ∀ s : State, NoReset s → startsTick s = true → s.idx.toNat < s.len →
    ∃ w : DacWord,
      (∀ n, n < s.cfg.xferCycles → ∃ t, After (n + 1) s t ∧ t.busy = true ∧ frameCycle t = n ∧
        (n < 2 ^ 24 → t.xcnt.toNat = n ∧ t.xcntHigh = 0) ∧
        t.lastWord = w ∧ t.valid = true ∧ startsTick t = false) ∧
      (∃ t, After (s.cfg.xferCycles + 1) s t ∧ t.busy = false ∧ t.xcnt = 0 ∧ t.xcntHigh = 0 ∧
        t.lastWord = w)

/-! ### The timer over many edges -/

/-- 44_timer.md R221, R222: over any number of edges without reset the prescaler and the microsecond
counter count the edges, whatever else happens. -/
def Obligations.TimeBaseCountsTheEdges : Prop :=
  ∀ (s : State) (k : Nat), NoReset s → s.presc < s.cfg.clkPerUs →
    ∃ t, After k s t ∧ t.presc = (s.presc + k) % s.cfg.clkPerUs ∧
      t.time.toNat = (s.time.toNat + (s.presc + k) / s.cfg.clkPerUs) % 2 ^ 32

/-- 44_timer.md section 5 (R234): a deadline written with a delay in `[1, 2^32 - 1]` is never the time of
the edge that writes it, and lies exactly the delay ahead modulo 2^32. -/
def Obligations.DeadlineLiesTheDelayAhead : Prop :=
  ∀ (time : Word) (delay : Nat), 1 ≤ delay → delay ≤ 2 ^ 32 - 1 →
    deadline time delay ≠ time ∧ (deadline time delay - time).toNat = delay

/-- 70_reset_and_hazards.md section 1 (R322): a disabled block that the host leaves alone starts no tick
and keeps its waveform, for any number of edges. -/
def Obligations.DisabledBlockStaysIdle : Prop :=
  ∀ (s : State) (k : Nat), Inv s → s.enable = false → HostQuiet s →
    ∃ t, After k s t ∧ startsTick t = false ∧ t.enable = false ∧ t.armed = false ∧
      t.pending = false ∧ t.phase = s.phase ∧ t.seg = s.seg ∧ t.idx = s.idx ∧ t.alarm = s.alarm ∧
      t.missed = s.missed ∧ t.lastWord = s.lastWord ∧ t.valid = s.valid

/-- 44_timer.md R233: from an enabling edge with prescaler `p`, the first fire comes
`PERIOD_US * CLK_PER_US - p` edges later with the prescaler at 0, and the first tick starts at the edge
after it, on time and one period after the enabling time, provided any frame then in progress has
ended. -/
def Obligations.FirstTickComesOnePeriodAfterEnabling : Prop :=
  ∀ (s : State) (i : HostInput) (is : List HostInput) (n : Nat), Inv s → s.inputs = i :: is →
    i.rst = false → enabling s = true → (∀ j ∈ is, j.rst = false ∧ writesCtrl j = false) →
    n + s.presc = s.cfg.periodUs * s.cfg.clkPerUs →
    (s.busy = true → s.cfg.xferCycles ≤ frameCycle s + n + 1) →
    NoStartBefore (n + 1) s ∧
    (∃ u, After n s u ∧ fires u = true ∧ u.presc = 0) ∧
    (∃ v, After (n + 1) s v ∧ startsTick v = true ∧ v.time = v.alarm ∧ v.presc = 1 ∧
      v.time.toNat = (s.time.toNat + s.cfg.periodUs) % 2 ^ 32)

/-- 44_timer.md R232: from a tick that starts one edge after its fire and is not late, the next fire is
`delay * CLK_PER_US - 1` edges later and, if no frame is then in progress, the next tick starts at
`delay * CLK_PER_US` edges, again one edge after its fire and not late, with no tick between. -/
def Obligations.OnTimeTicksAreExactlyTheDelayApart : Prop :=
  ∀ (s : State) (m : Nat), Inv s → HostQuiet s → startsTick s = true → s.time = s.alarm →
    s.presc = 1 → m = r280Delay s * s.cfg.clkPerUs →
    (s.idx.toNat < s.len → s.cfg.xferCycles < m) →
    (∀ n t, 0 < n → n < m → After n s t → startsTick t = false) ∧
    (∃ u, After (m - 1) s u ∧ fires u = true) ∧
    (∃ v, After m s v ∧ startsTick v = true ∧ v.time = v.alarm ∧ v.presc = 1 ∧
      v.time.toNat = (s.time.toNat + r280Delay s) % 2 ^ 32)

/-- 70_reset_and_hazards.md section 2 (R333 (b), (c)): where the frame is as long as the period or longer,
the tick after an emitting tick starts exactly `XFER_CYCLES + 1` edges after it, and it is late where
the frame is longer than the period by a whole microsecond. -/
def Obligations.OverrunningFramesSpaceTheTicks : Prop :=
  ∀ s : State, Inv s → HostQuiet s → startsTick s = true → s.idx.toNat < s.len →
    s.cfg.periodUs * s.cfg.clkPerUs ≤ s.cfg.xferCycles →
    (∀ n t, 0 < n → n ≤ s.cfg.xferCycles → After n s t → startsTick t = false) ∧
    ∃ v, After (s.cfg.xferCycles + 1) s v ∧ startsTick v = true ∧
      ((s.cfg.periodUs + 1) * s.cfg.clkPerUs ≤ s.cfg.xferCycles → v.time ≠ v.alarm)

/-- 42_sequencer.md section 3 (R169): under the segmented policy, with frames that fit, a silent host and
an on-time first tick of SWOOP, the whole waveform cycle takes
`(SWOOP_LEN + CHIRP_LEN + 2) * PERIOD_US + REST_US` microseconds and ends at an on-time first tick of
SWOOP, with the phase advanced by all the increments and no tick missed. -/
def Obligations.SegmentedCycleRepeats : Prop :=
  ∀ (s : State) (tb : SegmentTables), s.cfg.images = .segmented tb → FrameFits s.cfg → Inv s →
    HostQuiet s → startsTick s = true → s.time = s.alarm → s.presc = 1 → s.seg = .swoop → s.idx = 0 →
    ∃ v, After
        (((s.cfg.swoopLen + s.cfg.chirpLen + 2) * s.cfg.periodUs + s.cfg.restUs) * s.cfg.clkPerUs) s v ∧
      startsTick v = true ∧ v.time = v.alarm ∧ v.presc = 1 ∧ v.seg = .swoop ∧ v.idx = 0 ∧
      v.phase = phaseAfter (phaseAfter s.phase tb.incSwoop) tb.incChirp ∧ v.missed = s.missed

/-- 42_sequencer.md section 3 (R170): under the concatenated policy the cycle takes
`(SONG_LEN + 1) * PERIOD_US + REST_US` microseconds and repeats. -/
def Obligations.ConcatenatedCycleRepeats : Prop :=
  ∀ s : State, s.cfg.policy = .concatenated → FrameFits s.cfg → Inv s → HostQuiet s →
    startsTick s = true → s.time = s.alarm → s.presc = 1 → s.idx = 0 →
    ∃ v, After (((s.cfg.songLen + 1) * s.cfg.periodUs + s.cfg.restUs) * s.cfg.clkPerUs) s v ∧
      startsTick v = true ∧ v.time = v.alarm ∧ v.presc = 1 ∧ v.seg = s.seg ∧ v.idx = 0 ∧
      v.phase = s.phase ∧ v.missed = s.missed

/-! ### Placing an operation -/

/-- The model's own `withFetchWord` (assumption 10): the next edge after placing a tick selector starts a
tick with that selector, and after placing a host command it carries that command. -/
def Obligations.PlacedOperationRunsAtTheNextEdge : Prop :=
  (∀ (s : State) (b : BitVec 3), startsTick (placeTick b s) = true ∧
    tickSelector (placeTick b s) = b ∧ (placeTick b s).input = .nop) ∧
  (∀ (s : State) (b : BitVec 5), (place (.hostRd b) s).input.rst = false ∧
    (place (.hostRd b) s).input.rdWord = b ∧ (place (.hostRd b) s).input.we = false) ∧
  (∀ (s : State) (b : BitVec 5) (d : Word), (place (.hostWr b d) s).input.rst = false ∧
    (place (.hostWr b d) s).input.wrWord = b ∧ (place (.hostWr b d) s).input.wdata = d ∧
    (place (.hostWr b d) s).input.re = false)
end

