-- ==== Sys2Proof/Laws/Config.lean ====
section
/-! SUPPORT. What every built configuration satisfies: the constraints of 00_scope.md R10 (a) to (g), one
lemma each, and their consequences for the derived quantities. -/

namespace Sys2Proof

/-- The constraints of 00_scope.md R10 (a) to (g) as one fact about accepted parameters. -/
theorem Params.broken_eq_none_iff (p : Params) :
    p.broken = none ↔
      (1 ≤ p.periodUs ∧ p.periodUs + p.restUs ≤ 2 ^ 32 - 1) ∧ 2 ≤ p.clkPerUs ∧
      (1 ≤ p.sclkHalf ∧ p.clkPerUs ≤ 40 * p.sclkHalf) ∧ (2 ≤ p.sineBits ∧ p.sineBits ≤ 16) ∧
      (1 ≤ p.rampLen ∧ 2 * p.rampLen ≤ p.swoopLen ∧ 2 * p.rampLen ≤ p.chirpLen) ∧
      p.regionsFit = true ∧ p.imagesFit = true := by
  unfold Params.broken
  repeat' split
  all_goals simp_all
  omega

/-- A record breaks nothing where its parameters break none of (a) to (g) and its increments fit (h)
(00_scope.md R10). -/
theorem ConfigRecord.broken_eq_none_iff (r : ConfigRecord) [Decidable r.IncrementsFit] :
    r.broken = none ↔ r.toParams.broken = none ∧ r.IncrementsFit := by
  unfold ConfigRecord.broken
  split <;> simp_all

/-- What building answers (00_scope.md R7, 60_exceptions.md R301). -/
theorem Config.build_cases (r : ConfigRecord) [Decidable r.IncrementsFit] :
    (∃ k, r.broken = some k ∧ Config.build r = .error k) ∨
    (r.broken = none ∧ ∃ c : Config, c.toParams = r.toParams ∧ Config.build r = .ok c) := by
  unfold Config.build
  split
  · exact .inr ⟨‹_›, _, rfl, rfl⟩
  · exact .inl ⟨_, ‹_›, rfl⟩

namespace Config

theorem constraints (c : Config) :
    (1 ≤ c.periodUs ∧ c.periodUs + c.restUs ≤ 2 ^ 32 - 1) ∧ 2 ≤ c.clkPerUs ∧
    (1 ≤ c.sclkHalf ∧ c.clkPerUs ≤ 40 * c.sclkHalf) ∧ (2 ≤ c.sineBits ∧ c.sineBits ≤ 16) ∧
    (1 ≤ c.rampLen ∧ 2 * c.rampLen ≤ c.swoopLen ∧ 2 * c.rampLen ≤ c.chirpLen) ∧
    c.regionsFit = true ∧ c.imagesFit = true :=
  (Params.broken_eq_none_iff c.toParams).1 c.admitted

theorem one_le_periodUs (c : Config) : 1 ≤ c.periodUs := c.constraints.1.1

theorem delay_le (c : Config) : c.periodUs + c.restUs ≤ 2 ^ 32 - 1 := c.constraints.1.2

theorem two_le_clkPerUs (c : Config) : 2 ≤ c.clkPerUs := c.constraints.2.1

theorem one_le_sclkHalf (c : Config) : 1 ≤ c.sclkHalf := c.constraints.2.2.1.1

theorem sineBits_le (c : Config) : c.sineBits ≤ 16 := c.constraints.2.2.2.1.2

theorem xferCycles_pos (c : Config) : 33 ≤ c.xferCycles := by
  have := c.one_le_sclkHalf
  simp only [Params.xferCycles]; omega

/-- Every region fits the 24-bit index (00_scope.md R10 (f)). -/
theorem regionLen_le (c : Config) (seg : Segment) : c.regionLen seg ≤ 2 ^ 24 - 1 := by
  have h := c.constraints.2.2.2.2.2.1
  unfold Params.regionsFit at h
  unfold Params.regionLen
  cases hp : c.policy <;> rw [hp] at h <;> simp at h ⊢
  · cases seg <;> simp [Params.segmentLen] <;> omega
  · omega

/-- Every region has at least two samples (00_scope.md R10 (e)). -/
theorem two_le_regionLen (c : Config) (seg : Segment) : 2 ≤ c.regionLen seg := by
  obtain ⟨hr, hs, hc⟩ := c.constraints.2.2.2.2.1
  unfold Params.regionLen Params.songLen
  cases c.policy <;> cases seg <;> simp [Params.segmentLen] <;> omega

/-- The lengths of the segment tables (10_state.md R40). -/
theorem tables_lengths (c : Config) (t : SegmentTables) (h : c.images = .segmented t) :
    t.sine.length = 2 ^ c.sineBits ∧ (∀ seg, (t.inc seg).length = c.segmentLen seg) ∧
    (∀ seg, (t.env seg).length = c.segmentLen seg) := by
  have hf := c.constraints.2.2.2.2.2.2
  unfold Params.imagesFit at hf
  rw [h] at hf
  simp only [Bool.and_eq_true, decide_eq_true_eq] at hf
  obtain ⟨⟨⟨⟨h1, h2⟩, h3⟩, h4⟩, h5⟩ := hf
  refine ⟨h1, ?_, ?_⟩ <;> intro seg <;> cases seg <;>
    simp [SegmentTables.inc, SegmentTables.env, Params.segmentLen, h2, h3, h4, h5]

/-- The length of the concatenated buffer (10_state.md R40). -/
theorem pcm_length (c : Config) (pcm : List Sample) (h : c.images = .concatenated pcm) :
    pcm.length = c.songLen := by
  have hf := c.constraints.2.2.2.2.2.2
  unfold Params.imagesFit at hf
  rw [h] at hf
  simpa using hf

theorem policy_segmented_iff (c : Config) :
    c.policy = .segmented ↔ ∃ t, c.images = .segmented t := by
  unfold Params.policy; cases c.images <;> simp

theorem policy_concatenated_iff (c : Config) :
    c.policy = .concatenated ↔ ∃ pcm, c.images = .concatenated pcm := by
  unfold Params.policy; cases c.images <;> simp

/-- A sine index is inside `SINE_ROM` (20_memory.md R61). -/
theorem sineIndex_lt (c : Config) (ph : Word) :
    Machine.sineIndex c.shift ph < 2 ^ c.sineBits := by
  have hb := c.sineBits_le
  unfold Machine.sineIndex Params.shift
  rw [Nat.shiftRight_eq_div_pow]
  have hp : (2 : Nat) ^ 32 = 2 ^ c.sineBits * 2 ^ (32 - c.sineBits) := by
    rw [← pow_add]; congr 1; omega
  have hlt := ph.isLt
  rw [hp] at hlt
  exact Nat.div_lt_of_lt_mul (by rwa [Nat.mul_comm] at hlt)

end Config

end Sys2Proof
end

