-- ==== Sys2Proof/Laws/State.lean ====
section
/-! SUPPORT. One lemma for each field and each update of the state, so that no later proof unfolds a record
update. An update that depends on a condition gives a field it writes as a conditional value. -/

namespace Sys2Proof.Machine

@[simp] theorem putRdata_cfg (v : Word) (s : State) : (putRdata v s).cfg = s.cfg := (rfl)
@[simp] theorem putRdata_phase (v : Word) (s : State) : (putRdata v s).phase = s.phase := (rfl)
@[simp] theorem putRdata_seg (v : Word) (s : State) : (putRdata v s).seg = s.seg := (rfl)
@[simp] theorem putRdata_idx (v : Word) (s : State) : (putRdata v s).idx = s.idx := (rfl)
@[simp] theorem putRdata_time (v : Word) (s : State) : (putRdata v s).time = s.time := (rfl)
@[simp] theorem putRdata_presc (v : Word) (s : State) : (putRdata v s).presc = s.presc := (rfl)
@[simp] theorem putRdata_alarm (v : Word) (s : State) : (putRdata v s).alarm = s.alarm := (rfl)
@[simp] theorem putRdata_armed (v : Word) (s : State) : (putRdata v s).armed = s.armed := (rfl)
@[simp] theorem putRdata_pending (v : Word) (s : State) : (putRdata v s).pending = s.pending := (rfl)
@[simp] theorem putRdata_enable (v : Word) (s : State) : (putRdata v s).enable = s.enable := (rfl)
@[simp] theorem putRdata_busy (v : Word) (s : State) : (putRdata v s).busy = s.busy := (rfl)
@[simp] theorem putRdata_xcnt (v : Word) (s : State) : (putRdata v s).xcnt = s.xcnt := (rfl)
@[simp] theorem putRdata_lastWord (v : Word) (s : State) : (putRdata v s).lastWord = s.lastWord := (rfl)
@[simp] theorem putRdata_valid (v : Word) (s : State) : (putRdata v s).valid = s.valid := (rfl)
@[simp] theorem putRdata_probePulse (v : Word) (s : State) : (putRdata v s).probePulse = s.probePulse := (rfl)
@[simp] theorem putRdata_missed (v : Word) (s : State) : (putRdata v s).missed = s.missed := (rfl)
@[simp] theorem putRdata_hostRdata (v : Word) (s : State) : (putRdata v s).hostRdata = v := (rfl)
@[simp] theorem putRdata_inputs (v : Word) (s : State) : (putRdata v s).inputs = s.inputs := (rfl)
@[simp] theorem putRdata_xcntHigh (v : Word) (s : State) : (putRdata v s).xcntHigh = s.xcntHigh := (rfl)

@[simp] theorem emitFrame_cfg (w : DacWord) (s : State) : (emitFrame w s).cfg = s.cfg := (rfl)
@[simp] theorem emitFrame_phase (w : DacWord) (s : State) : (emitFrame w s).phase = s.phase := (rfl)
@[simp] theorem emitFrame_seg (w : DacWord) (s : State) : (emitFrame w s).seg = s.seg := (rfl)
@[simp] theorem emitFrame_idx (w : DacWord) (s : State) : (emitFrame w s).idx = s.idx := (rfl)
@[simp] theorem emitFrame_time (w : DacWord) (s : State) : (emitFrame w s).time = s.time := (rfl)
@[simp] theorem emitFrame_presc (w : DacWord) (s : State) : (emitFrame w s).presc = s.presc := (rfl)
@[simp] theorem emitFrame_alarm (w : DacWord) (s : State) : (emitFrame w s).alarm = s.alarm := (rfl)
@[simp] theorem emitFrame_armed (w : DacWord) (s : State) : (emitFrame w s).armed = s.armed := (rfl)
@[simp] theorem emitFrame_pending (w : DacWord) (s : State) : (emitFrame w s).pending = s.pending := (rfl)
@[simp] theorem emitFrame_enable (w : DacWord) (s : State) : (emitFrame w s).enable = s.enable := (rfl)
@[simp] theorem emitFrame_busy (w : DacWord) (s : State) : (emitFrame w s).busy = true := (rfl)
@[simp] theorem emitFrame_xcnt (w : DacWord) (s : State) : (emitFrame w s).xcnt = 0 := (rfl)
@[simp] theorem emitFrame_lastWord (w : DacWord) (s : State) : (emitFrame w s).lastWord = w := (rfl)
@[simp] theorem emitFrame_valid (w : DacWord) (s : State) : (emitFrame w s).valid = true := (rfl)
@[simp] theorem emitFrame_probePulse (w : DacWord) (s : State) : (emitFrame w s).probePulse = s.probePulse := (rfl)
@[simp] theorem emitFrame_missed (w : DacWord) (s : State) : (emitFrame w s).missed = s.missed := (rfl)
@[simp] theorem emitFrame_hostRdata (w : DacWord) (s : State) : (emitFrame w s).hostRdata = s.hostRdata := (rfl)
@[simp] theorem emitFrame_inputs (w : DacWord) (s : State) : (emitFrame w s).inputs = s.inputs := (rfl)
@[simp] theorem emitFrame_xcntHigh (w : DacWord) (s : State) : (emitFrame w s).xcntHigh = 0 := (rfl)

@[simp] theorem enterTick_cfg (d : Nat) (b : Bool) (s : State) : (enterTick d b s).cfg = s.cfg := (rfl)
@[simp] theorem enterTick_phase (d : Nat) (b : Bool) (s : State) : (enterTick d b s).phase = s.phase := (rfl)
@[simp] theorem enterTick_seg (d : Nat) (b : Bool) (s : State) : (enterTick d b s).seg = s.seg := (rfl)
@[simp] theorem enterTick_idx (d : Nat) (b : Bool) (s : State) : (enterTick d b s).idx = s.idx := (rfl)
@[simp] theorem enterTick_time (d : Nat) (b : Bool) (s : State) : (enterTick d b s).time = s.time := (rfl)
@[simp] theorem enterTick_presc (d : Nat) (b : Bool) (s : State) : (enterTick d b s).presc = s.presc := (rfl)
@[simp] theorem enterTick_alarm (d : Nat) (b : Bool) (s : State) : (enterTick d b s).alarm = (deadline s.time d) := (rfl)
@[simp] theorem enterTick_armed (d : Nat) (b : Bool) (s : State) : (enterTick d b s).armed = true := (rfl)
@[simp] theorem enterTick_pending (d : Nat) (b : Bool) (s : State) : (enterTick d b s).pending = false := (rfl)
@[simp] theorem enterTick_enable (d : Nat) (b : Bool) (s : State) : (enterTick d b s).enable = s.enable := (rfl)
@[simp] theorem enterTick_busy (d : Nat) (b : Bool) (s : State) : (enterTick d b s).busy = s.busy := (rfl)
@[simp] theorem enterTick_xcnt (d : Nat) (b : Bool) (s : State) : (enterTick d b s).xcnt = s.xcnt := (rfl)
@[simp] theorem enterTick_lastWord (d : Nat) (b : Bool) (s : State) : (enterTick d b s).lastWord = s.lastWord := (rfl)
@[simp] theorem enterTick_valid (d : Nat) (b : Bool) (s : State) : (enterTick d b s).valid = s.valid := (rfl)
@[simp] theorem enterTick_probePulse (d : Nat) (b : Bool) (s : State) : (enterTick d b s).probePulse = b := (rfl)
@[simp] theorem enterTick_missed (d : Nat) (b : Bool) (s : State) : (enterTick d b s).missed = (if isLate s then saturatingSucc s.missed else s.missed) := (rfl)
@[simp] theorem enterTick_hostRdata (d : Nat) (b : Bool) (s : State) : (enterTick d b s).hostRdata = s.hostRdata := (rfl)
@[simp] theorem enterTick_inputs (d : Nat) (b : Bool) (s : State) : (enterTick d b s).inputs = s.inputs := (rfl)
@[simp] theorem enterTick_xcntHigh (d : Nat) (b : Bool) (s : State) : (enterTick d b s).xcntHigh = s.xcntHigh := (rfl)

@[simp] theorem enableBlock_cfg (s : State) : (enableBlock s).cfg = s.cfg := (rfl)
@[simp] theorem enableBlock_phase (s : State) : (enableBlock s).phase = s.phase := (rfl)
@[simp] theorem enableBlock_seg (s : State) : (enableBlock s).seg = s.seg := (rfl)
@[simp] theorem enableBlock_idx (s : State) : (enableBlock s).idx = s.idx := (rfl)
@[simp] theorem enableBlock_time (s : State) : (enableBlock s).time = s.time := (rfl)
@[simp] theorem enableBlock_presc (s : State) : (enableBlock s).presc = s.presc := (rfl)
@[simp] theorem enableBlock_alarm (s : State) : (enableBlock s).alarm = (deadline s.time s.cfg.periodUs) := (rfl)
@[simp] theorem enableBlock_armed (s : State) : (enableBlock s).armed = true := (rfl)
@[simp] theorem enableBlock_pending (s : State) : (enableBlock s).pending = false := (rfl)
@[simp] theorem enableBlock_enable (s : State) : (enableBlock s).enable = true := (rfl)
@[simp] theorem enableBlock_busy (s : State) : (enableBlock s).busy = s.busy := (rfl)
@[simp] theorem enableBlock_xcnt (s : State) : (enableBlock s).xcnt = s.xcnt := (rfl)
@[simp] theorem enableBlock_lastWord (s : State) : (enableBlock s).lastWord = s.lastWord := (rfl)
@[simp] theorem enableBlock_valid (s : State) : (enableBlock s).valid = s.valid := (rfl)
@[simp] theorem enableBlock_probePulse (s : State) : (enableBlock s).probePulse = s.probePulse := (rfl)
@[simp] theorem enableBlock_missed (s : State) : (enableBlock s).missed = s.missed := (rfl)
@[simp] theorem enableBlock_hostRdata (s : State) : (enableBlock s).hostRdata = s.hostRdata := (rfl)
@[simp] theorem enableBlock_inputs (s : State) : (enableBlock s).inputs = s.inputs := (rfl)
@[simp] theorem enableBlock_xcntHigh (s : State) : (enableBlock s).xcntHigh = s.xcntHigh := (rfl)

@[simp] theorem disableBlock_cfg (s : State) : (disableBlock s).cfg = s.cfg := (rfl)
@[simp] theorem disableBlock_phase (s : State) : (disableBlock s).phase = s.phase := (rfl)
@[simp] theorem disableBlock_seg (s : State) : (disableBlock s).seg = s.seg := (rfl)
@[simp] theorem disableBlock_idx (s : State) : (disableBlock s).idx = s.idx := (rfl)
@[simp] theorem disableBlock_time (s : State) : (disableBlock s).time = s.time := (rfl)
@[simp] theorem disableBlock_presc (s : State) : (disableBlock s).presc = s.presc := (rfl)
@[simp] theorem disableBlock_alarm (s : State) : (disableBlock s).alarm = s.alarm := (rfl)
@[simp] theorem disableBlock_armed (s : State) : (disableBlock s).armed = false := (rfl)
@[simp] theorem disableBlock_pending (s : State) : (disableBlock s).pending = false := (rfl)
@[simp] theorem disableBlock_enable (s : State) : (disableBlock s).enable = false := (rfl)
@[simp] theorem disableBlock_busy (s : State) : (disableBlock s).busy = s.busy := (rfl)
@[simp] theorem disableBlock_xcnt (s : State) : (disableBlock s).xcnt = s.xcnt := (rfl)
@[simp] theorem disableBlock_lastWord (s : State) : (disableBlock s).lastWord = s.lastWord := (rfl)
@[simp] theorem disableBlock_valid (s : State) : (disableBlock s).valid = s.valid := (rfl)
@[simp] theorem disableBlock_probePulse (s : State) : (disableBlock s).probePulse = s.probePulse := (rfl)
@[simp] theorem disableBlock_missed (s : State) : (disableBlock s).missed = s.missed := (rfl)
@[simp] theorem disableBlock_hostRdata (s : State) : (disableBlock s).hostRdata = s.hostRdata := (rfl)
@[simp] theorem disableBlock_inputs (s : State) : (disableBlock s).inputs = s.inputs := (rfl)
@[simp] theorem disableBlock_xcntHigh (s : State) : (disableBlock s).xcntHigh = s.xcntHigh := (rfl)

@[simp] theorem clearProbe_cfg (s : State) : (clearProbe s).cfg = s.cfg := (rfl)
@[simp] theorem clearProbe_phase (s : State) : (clearProbe s).phase = s.phase := (rfl)
@[simp] theorem clearProbe_seg (s : State) : (clearProbe s).seg = s.seg := (rfl)
@[simp] theorem clearProbe_idx (s : State) : (clearProbe s).idx = s.idx := (rfl)
@[simp] theorem clearProbe_time (s : State) : (clearProbe s).time = s.time := (rfl)
@[simp] theorem clearProbe_presc (s : State) : (clearProbe s).presc = s.presc := (rfl)
@[simp] theorem clearProbe_alarm (s : State) : (clearProbe s).alarm = s.alarm := (rfl)
@[simp] theorem clearProbe_armed (s : State) : (clearProbe s).armed = s.armed := (rfl)
@[simp] theorem clearProbe_pending (s : State) : (clearProbe s).pending = s.pending := (rfl)
@[simp] theorem clearProbe_enable (s : State) : (clearProbe s).enable = s.enable := (rfl)
@[simp] theorem clearProbe_busy (s : State) : (clearProbe s).busy = s.busy := (rfl)
@[simp] theorem clearProbe_xcnt (s : State) : (clearProbe s).xcnt = s.xcnt := (rfl)
@[simp] theorem clearProbe_lastWord (s : State) : (clearProbe s).lastWord = s.lastWord := (rfl)
@[simp] theorem clearProbe_valid (s : State) : (clearProbe s).valid = s.valid := (rfl)
@[simp] theorem clearProbe_probePulse (s : State) : (clearProbe s).probePulse = false := (rfl)
@[simp] theorem clearProbe_missed (s : State) : (clearProbe s).missed = s.missed := (rfl)
@[simp] theorem clearProbe_hostRdata (s : State) : (clearProbe s).hostRdata = s.hostRdata := (rfl)
@[simp] theorem clearProbe_inputs (s : State) : (clearProbe s).inputs = s.inputs := (rfl)
@[simp] theorem clearProbe_xcntHigh (s : State) : (clearProbe s).xcntHigh = s.xcntHigh := (rfl)

@[simp] theorem nextCycle_cfg (s : State) : (nextCycle s).cfg = s.cfg := (rfl)
@[simp] theorem nextCycle_phase (s : State) : (nextCycle s).phase = s.phase := (rfl)
@[simp] theorem nextCycle_seg (s : State) : (nextCycle s).seg = s.seg := (rfl)
@[simp] theorem nextCycle_idx (s : State) : (nextCycle s).idx = s.idx := (rfl)
@[simp] theorem nextCycle_time (s : State) : (nextCycle s).time = s.time := (rfl)
@[simp] theorem nextCycle_presc (s : State) : (nextCycle s).presc = s.presc := (rfl)
@[simp] theorem nextCycle_alarm (s : State) : (nextCycle s).alarm = s.alarm := (rfl)
@[simp] theorem nextCycle_armed (s : State) : (nextCycle s).armed = s.armed := (rfl)
@[simp] theorem nextCycle_pending (s : State) : (nextCycle s).pending = s.pending := (rfl)
@[simp] theorem nextCycle_enable (s : State) : (nextCycle s).enable = s.enable := (rfl)
@[simp] theorem nextCycle_busy (s : State) : (nextCycle s).busy = s.busy := (rfl)
@[simp] theorem nextCycle_xcnt (s : State) : (nextCycle s).xcnt = s.xcnt := (rfl)
@[simp] theorem nextCycle_lastWord (s : State) : (nextCycle s).lastWord = s.lastWord := (rfl)
@[simp] theorem nextCycle_valid (s : State) : (nextCycle s).valid = s.valid := (rfl)
@[simp] theorem nextCycle_probePulse (s : State) : (nextCycle s).probePulse = s.probePulse := (rfl)
@[simp] theorem nextCycle_missed (s : State) : (nextCycle s).missed = s.missed := (rfl)
@[simp] theorem nextCycle_hostRdata (s : State) : (nextCycle s).hostRdata = s.hostRdata := (rfl)
@[simp] theorem nextCycle_inputs (s : State) : (nextCycle s).inputs = s.inputs.tail := (rfl)
@[simp] theorem nextCycle_xcntHigh (s : State) : (nextCycle s).xcntHigh = s.xcntHigh := (rfl)

@[simp] theorem resetOf_cfg (c : Config) (is : List HostInput) : (State.resetOf c is).cfg = c := (rfl)
@[simp] theorem resetOf_phase (c : Config) (is : List HostInput) : (State.resetOf c is).phase = 0 := (rfl)
@[simp] theorem resetOf_seg (c : Config) (is : List HostInput) : (State.resetOf c is).seg = .swoop := (rfl)
@[simp] theorem resetOf_idx (c : Config) (is : List HostInput) : (State.resetOf c is).idx = 0 := (rfl)
@[simp] theorem resetOf_time (c : Config) (is : List HostInput) : (State.resetOf c is).time = 0 := (rfl)
@[simp] theorem resetOf_presc (c : Config) (is : List HostInput) : (State.resetOf c is).presc = 0 := (rfl)
@[simp] theorem resetOf_alarm (c : Config) (is : List HostInput) : (State.resetOf c is).alarm = 0 := (rfl)
@[simp] theorem resetOf_armed (c : Config) (is : List HostInput) : (State.resetOf c is).armed = false := (rfl)
@[simp] theorem resetOf_pending (c : Config) (is : List HostInput) : (State.resetOf c is).pending = false := (rfl)
@[simp] theorem resetOf_enable (c : Config) (is : List HostInput) : (State.resetOf c is).enable = false := (rfl)
@[simp] theorem resetOf_busy (c : Config) (is : List HostInput) : (State.resetOf c is).busy = false := (rfl)
@[simp] theorem resetOf_xcnt (c : Config) (is : List HostInput) : (State.resetOf c is).xcnt = 0 := (rfl)
@[simp] theorem resetOf_lastWord (c : Config) (is : List HostInput) : (State.resetOf c is).lastWord = 0 := (rfl)
@[simp] theorem resetOf_valid (c : Config) (is : List HostInput) : (State.resetOf c is).valid = false := (rfl)
@[simp] theorem resetOf_probePulse (c : Config) (is : List HostInput) : (State.resetOf c is).probePulse = false := (rfl)
@[simp] theorem resetOf_missed (c : Config) (is : List HostInput) : (State.resetOf c is).missed = 0 := (rfl)
@[simp] theorem resetOf_hostRdata (c : Config) (is : List HostInput) : (State.resetOf c is).hostRdata = 0 := (rfl)
@[simp] theorem resetOf_inputs (c : Config) (is : List HostInput) : (State.resetOf c is).inputs = is := (rfl)
@[simp] theorem resetOf_xcntHigh (c : Config) (is : List HostInput) : (State.resetOf c is).xcntHigh = 0 := (rfl)

@[simp] theorem applyReset_cfg (s : State) : (applyReset s).cfg = s.cfg := (rfl)
@[simp] theorem applyReset_phase (s : State) : (applyReset s).phase = 0 := (rfl)
@[simp] theorem applyReset_seg (s : State) : (applyReset s).seg = .swoop := (rfl)
@[simp] theorem applyReset_idx (s : State) : (applyReset s).idx = 0 := (rfl)
@[simp] theorem applyReset_time (s : State) : (applyReset s).time = 0 := (rfl)
@[simp] theorem applyReset_presc (s : State) : (applyReset s).presc = 0 := (rfl)
@[simp] theorem applyReset_alarm (s : State) : (applyReset s).alarm = 0 := (rfl)
@[simp] theorem applyReset_armed (s : State) : (applyReset s).armed = false := (rfl)
@[simp] theorem applyReset_pending (s : State) : (applyReset s).pending = false := (rfl)
@[simp] theorem applyReset_enable (s : State) : (applyReset s).enable = false := (rfl)
@[simp] theorem applyReset_busy (s : State) : (applyReset s).busy = false := (rfl)
@[simp] theorem applyReset_xcnt (s : State) : (applyReset s).xcnt = 0 := (rfl)
@[simp] theorem applyReset_lastWord (s : State) : (applyReset s).lastWord = 0 := (rfl)
@[simp] theorem applyReset_valid (s : State) : (applyReset s).valid = false := (rfl)
@[simp] theorem applyReset_probePulse (s : State) : (applyReset s).probePulse = false := (rfl)
@[simp] theorem applyReset_missed (s : State) : (applyReset s).missed = 0 := (rfl)
@[simp] theorem applyReset_hostRdata (s : State) : (applyReset s).hostRdata = s.hostRdata := (rfl)
@[simp] theorem applyReset_inputs (s : State) : (applyReset s).inputs = s.inputs := (rfl)
@[simp] theorem applyReset_xcntHigh (s : State) : (applyReset s).xcntHigh = 0 := (rfl)

@[simp] theorem applyFire_cfg (s : State) : (applyFire s).cfg = s.cfg := by
  unfold applyFire; (repeat' split) <;> rfl
@[simp] theorem applyFire_phase (s : State) : (applyFire s).phase = s.phase := by
  unfold applyFire; (repeat' split) <;> rfl
@[simp] theorem applyFire_seg (s : State) : (applyFire s).seg = s.seg := by
  unfold applyFire; (repeat' split) <;> rfl
@[simp] theorem applyFire_idx (s : State) : (applyFire s).idx = s.idx := by
  unfold applyFire; (repeat' split) <;> rfl
@[simp] theorem applyFire_time (s : State) : (applyFire s).time = s.time := by
  unfold applyFire; (repeat' split) <;> rfl
@[simp] theorem applyFire_presc (s : State) : (applyFire s).presc = s.presc := by
  unfold applyFire; (repeat' split) <;> rfl
@[simp] theorem applyFire_alarm (s : State) : (applyFire s).alarm = s.alarm := by
  unfold applyFire; (repeat' split) <;> rfl
@[simp] theorem applyFire_armed (s : State) : (applyFire s).armed = (if fires s then false else s.armed) := by
  unfold applyFire; repeat' split
  all_goals simp_all
@[simp] theorem applyFire_pending (s : State) : (applyFire s).pending = (if fires s then true else s.pending) := by
  unfold applyFire; repeat' split
  all_goals simp_all
@[simp] theorem applyFire_enable (s : State) : (applyFire s).enable = s.enable := by
  unfold applyFire; (repeat' split) <;> rfl
@[simp] theorem applyFire_busy (s : State) : (applyFire s).busy = s.busy := by
  unfold applyFire; (repeat' split) <;> rfl
@[simp] theorem applyFire_xcnt (s : State) : (applyFire s).xcnt = s.xcnt := by
  unfold applyFire; (repeat' split) <;> rfl
@[simp] theorem applyFire_lastWord (s : State) : (applyFire s).lastWord = s.lastWord := by
  unfold applyFire; (repeat' split) <;> rfl
@[simp] theorem applyFire_valid (s : State) : (applyFire s).valid = s.valid := by
  unfold applyFire; (repeat' split) <;> rfl
@[simp] theorem applyFire_probePulse (s : State) : (applyFire s).probePulse = s.probePulse := by
  unfold applyFire; (repeat' split) <;> rfl
@[simp] theorem applyFire_missed (s : State) : (applyFire s).missed = s.missed := by
  unfold applyFire; (repeat' split) <;> rfl
@[simp] theorem applyFire_hostRdata (s : State) : (applyFire s).hostRdata = s.hostRdata := by
  unfold applyFire; (repeat' split) <;> rfl
@[simp] theorem applyFire_inputs (s : State) : (applyFire s).inputs = s.inputs := by
  unfold applyFire; (repeat' split) <;> rfl
@[simp] theorem applyFire_xcntHigh (s : State) : (applyFire s).xcntHigh = s.xcntHigh := by
  unfold applyFire; (repeat' split) <;> rfl

@[simp] theorem countCycle_cfg (s : State) : (countCycle s).cfg = s.cfg := (rfl)
@[simp] theorem countCycle_phase (s : State) : (countCycle s).phase = s.phase := (rfl)
@[simp] theorem countCycle_seg (s : State) : (countCycle s).seg = s.seg := (rfl)
@[simp] theorem countCycle_idx (s : State) : (countCycle s).idx = s.idx := (rfl)
@[simp] theorem countCycle_time (s : State) : (countCycle s).time = s.time := (rfl)
@[simp] theorem countCycle_presc (s : State) : (countCycle s).presc = s.presc := (rfl)
@[simp] theorem countCycle_alarm (s : State) : (countCycle s).alarm = s.alarm := (rfl)
@[simp] theorem countCycle_armed (s : State) : (countCycle s).armed = s.armed := (rfl)
@[simp] theorem countCycle_pending (s : State) : (countCycle s).pending = s.pending := (rfl)
@[simp] theorem countCycle_enable (s : State) : (countCycle s).enable = s.enable := (rfl)
@[simp] theorem countCycle_busy (s : State) : (countCycle s).busy = s.busy := (rfl)
@[simp] theorem countCycle_lastWord (s : State) : (countCycle s).lastWord = s.lastWord := (rfl)
@[simp] theorem countCycle_valid (s : State) : (countCycle s).valid = s.valid := (rfl)
@[simp] theorem countCycle_probePulse (s : State) : (countCycle s).probePulse = s.probePulse := (rfl)
@[simp] theorem countCycle_missed (s : State) : (countCycle s).missed = s.missed := (rfl)
@[simp] theorem countCycle_hostRdata (s : State) : (countCycle s).hostRdata = s.hostRdata := (rfl)
@[simp] theorem countCycle_inputs (s : State) : (countCycle s).inputs = s.inputs := (rfl)
@[simp] theorem countCycle_xcnt (s : State) : (countCycle s).xcnt = s.xcnt + 1 := (rfl)

@[simp] theorem frameProgress_cfg (s : State) : (frameProgress s).cfg = s.cfg := by
  unfold frameProgress; (repeat' split) <;> rfl
@[simp] theorem frameProgress_phase (s : State) : (frameProgress s).phase = s.phase := by
  unfold frameProgress; (repeat' split) <;> rfl
@[simp] theorem frameProgress_seg (s : State) : (frameProgress s).seg = s.seg := by
  unfold frameProgress; (repeat' split) <;> rfl
@[simp] theorem frameProgress_idx (s : State) : (frameProgress s).idx = s.idx := by
  unfold frameProgress; (repeat' split) <;> rfl
@[simp] theorem frameProgress_time (s : State) : (frameProgress s).time = s.time := by
  unfold frameProgress; (repeat' split) <;> rfl
@[simp] theorem frameProgress_presc (s : State) : (frameProgress s).presc = s.presc := by
  unfold frameProgress; (repeat' split) <;> rfl
@[simp] theorem frameProgress_alarm (s : State) : (frameProgress s).alarm = s.alarm := by
  unfold frameProgress; (repeat' split) <;> rfl
@[simp] theorem frameProgress_armed (s : State) : (frameProgress s).armed = s.armed := by
  unfold frameProgress; (repeat' split) <;> rfl
@[simp] theorem frameProgress_pending (s : State) : (frameProgress s).pending = s.pending := by
  unfold frameProgress; (repeat' split) <;> rfl
@[simp] theorem frameProgress_enable (s : State) : (frameProgress s).enable = s.enable := by
  unfold frameProgress; (repeat' split) <;> rfl
@[simp] theorem frameProgress_busy (s : State) : (frameProgress s).busy = (s.busy && !frameEnds s) := by
  unfold frameProgress; repeat' split
  all_goals simp_all
@[simp] theorem frameProgress_xcnt (s : State) : (frameProgress s).xcnt = (if frameEnds s then 0 else if s.busy then s.xcnt + 1 else s.xcnt) := by
  unfold frameProgress; (repeat' split) <;> rfl
@[simp] theorem frameProgress_lastWord (s : State) : (frameProgress s).lastWord = s.lastWord := by
  unfold frameProgress; (repeat' split) <;> rfl
@[simp] theorem frameProgress_valid (s : State) : (frameProgress s).valid = s.valid := by
  unfold frameProgress; (repeat' split) <;> rfl
@[simp] theorem frameProgress_probePulse (s : State) : (frameProgress s).probePulse = s.probePulse := by
  unfold frameProgress; (repeat' split) <;> rfl
@[simp] theorem frameProgress_missed (s : State) : (frameProgress s).missed = s.missed := by
  unfold frameProgress; (repeat' split) <;> rfl
@[simp] theorem frameProgress_hostRdata (s : State) : (frameProgress s).hostRdata = s.hostRdata := by
  unfold frameProgress; (repeat' split) <;> rfl
@[simp] theorem frameProgress_inputs (s : State) : (frameProgress s).inputs = s.inputs := by
  unfold frameProgress; (repeat' split) <;> rfl
@[simp] theorem frameProgress_xcntHigh (s : State) : (frameProgress s).xcntHigh = (if frameEnds s then 0 else if s.busy then (countCycle s).xcntHigh else s.xcntHigh) := by
  unfold frameProgress; (repeat' split) <;> rfl

@[simp] theorem timeBase_cfg (s : State) : (timeBase s).cfg = s.cfg := by
  unfold timeBase; (repeat' split) <;> rfl
@[simp] theorem timeBase_phase (s : State) : (timeBase s).phase = s.phase := by
  unfold timeBase; (repeat' split) <;> rfl
@[simp] theorem timeBase_seg (s : State) : (timeBase s).seg = s.seg := by
  unfold timeBase; (repeat' split) <;> rfl
@[simp] theorem timeBase_idx (s : State) : (timeBase s).idx = s.idx := by
  unfold timeBase; (repeat' split) <;> rfl
@[simp] theorem timeBase_time (s : State) : (timeBase s).time = (if s.presc = s.cfg.clkPerUs - 1 then s.time + 1 else s.time) := by
  unfold timeBase; repeat' split
  all_goals simp_all
@[simp] theorem timeBase_presc (s : State) : (timeBase s).presc = (if s.presc = s.cfg.clkPerUs - 1 then 0 else s.presc + 1) := by
  unfold timeBase; repeat' split
  all_goals simp_all
@[simp] theorem timeBase_alarm (s : State) : (timeBase s).alarm = s.alarm := by
  unfold timeBase; (repeat' split) <;> rfl
@[simp] theorem timeBase_armed (s : State) : (timeBase s).armed = s.armed := by
  unfold timeBase; (repeat' split) <;> rfl
@[simp] theorem timeBase_pending (s : State) : (timeBase s).pending = s.pending := by
  unfold timeBase; (repeat' split) <;> rfl
@[simp] theorem timeBase_enable (s : State) : (timeBase s).enable = s.enable := by
  unfold timeBase; (repeat' split) <;> rfl
@[simp] theorem timeBase_busy (s : State) : (timeBase s).busy = s.busy := by
  unfold timeBase; (repeat' split) <;> rfl
@[simp] theorem timeBase_xcnt (s : State) : (timeBase s).xcnt = s.xcnt := by
  unfold timeBase; (repeat' split) <;> rfl
@[simp] theorem timeBase_lastWord (s : State) : (timeBase s).lastWord = s.lastWord := by
  unfold timeBase; (repeat' split) <;> rfl
@[simp] theorem timeBase_valid (s : State) : (timeBase s).valid = s.valid := by
  unfold timeBase; (repeat' split) <;> rfl
@[simp] theorem timeBase_probePulse (s : State) : (timeBase s).probePulse = s.probePulse := by
  unfold timeBase; (repeat' split) <;> rfl
@[simp] theorem timeBase_missed (s : State) : (timeBase s).missed = s.missed := by
  unfold timeBase; (repeat' split) <;> rfl
@[simp] theorem timeBase_hostRdata (s : State) : (timeBase s).hostRdata = s.hostRdata := by
  unfold timeBase; (repeat' split) <;> rfl
@[simp] theorem timeBase_inputs (s : State) : (timeBase s).inputs = s.inputs := by
  unfold timeBase; (repeat' split) <;> rfl
@[simp] theorem timeBase_xcntHigh (s : State) : (timeBase s).xcntHigh = s.xcntHigh := by
  unfold timeBase; (repeat' split) <;> rfl

@[simp] theorem writeCtrl_cfg (d : Word) (s : State) : (writeCtrl d s).cfg = s.cfg := by
  unfold writeCtrl; (repeat' split) <;> rfl
@[simp] theorem writeCtrl_phase (d : Word) (s : State) : (writeCtrl d s).phase = s.phase := by
  unfold writeCtrl; (repeat' split) <;> rfl
@[simp] theorem writeCtrl_seg (d : Word) (s : State) : (writeCtrl d s).seg = s.seg := by
  unfold writeCtrl; (repeat' split) <;> rfl
@[simp] theorem writeCtrl_idx (d : Word) (s : State) : (writeCtrl d s).idx = s.idx := by
  unfold writeCtrl; (repeat' split) <;> rfl
@[simp] theorem writeCtrl_time (d : Word) (s : State) : (writeCtrl d s).time = s.time := by
  unfold writeCtrl; (repeat' split) <;> rfl
@[simp] theorem writeCtrl_presc (d : Word) (s : State) : (writeCtrl d s).presc = s.presc := by
  unfold writeCtrl; (repeat' split) <;> rfl
@[simp] theorem writeCtrl_busy (d : Word) (s : State) : (writeCtrl d s).busy = s.busy := by
  unfold writeCtrl; (repeat' split) <;> rfl
@[simp] theorem writeCtrl_xcnt (d : Word) (s : State) : (writeCtrl d s).xcnt = s.xcnt := by
  unfold writeCtrl; (repeat' split) <;> rfl
@[simp] theorem writeCtrl_lastWord (d : Word) (s : State) : (writeCtrl d s).lastWord = s.lastWord := by
  unfold writeCtrl; (repeat' split) <;> rfl
@[simp] theorem writeCtrl_valid (d : Word) (s : State) : (writeCtrl d s).valid = s.valid := by
  unfold writeCtrl; (repeat' split) <;> rfl
@[simp] theorem writeCtrl_probePulse (d : Word) (s : State) : (writeCtrl d s).probePulse = s.probePulse := by
  unfold writeCtrl; (repeat' split) <;> rfl
@[simp] theorem writeCtrl_missed (d : Word) (s : State) : (writeCtrl d s).missed = s.missed := by
  unfold writeCtrl; (repeat' split) <;> rfl
@[simp] theorem writeCtrl_hostRdata (d : Word) (s : State) : (writeCtrl d s).hostRdata = s.hostRdata := by
  unfold writeCtrl; (repeat' split) <;> rfl
@[simp] theorem writeCtrl_inputs (d : Word) (s : State) : (writeCtrl d s).inputs = s.inputs := by
  unfold writeCtrl; (repeat' split) <;> rfl
@[simp] theorem writeCtrl_xcntHigh (d : Word) (s : State) : (writeCtrl d s).xcntHigh = s.xcntHigh := by
  unfold writeCtrl; (repeat' split) <;> rfl

/-- What a write to `CTRL` does, case by case. -/
theorem writeCtrl_cases (d : Word) (s : State) :
    (d.getLsbD 0 = true ∧ s.enable = false ∧ writeCtrl d s = enableBlock s) ∨
    (d.getLsbD 0 = false ∧ s.enable = true ∧ writeCtrl d s = disableBlock s) ∨
    (d.getLsbD 0 = s.enable ∧ writeCtrl d s = s) := by
  unfold writeCtrl
  cases d.getLsbD 0 <;> cases s.enable <;> simp

/-- The current input depends on the script alone. -/
theorem input_congr {s t : State} (h : t.inputs = s.inputs) : t.input = s.input := by
  simp only [State.input, h]

@[simp] theorem putRdata_input (v : Word) (s : State) : (putRdata v s).input = s.input :=
  input_congr rfl

@[simp] theorem clearProbe_input (s : State) : (clearProbe s).input = s.input := input_congr rfl

@[simp] theorem applyFire_input (s : State) : (applyFire s).input = s.input := input_congr (by simp)

@[simp] theorem frameProgress_input (s : State) : (frameProgress s).input = s.input :=
  input_congr (by simp)

@[simp] theorem putRdata_fires (v : Word) (s : State) : fires (putRdata v s) = fires s := by
  simp [fires, disabling]

@[simp] theorem putRdata_startsTick (v : Word) (s : State) :
    startsTick (putRdata v s) = startsTick s := by
  simp [startsTick, disabling]

/-- The count of a frame depends on its two parts alone. -/
theorem frameCycle_congr {s t : State} (h : t.xcnt = s.xcnt) (h' : t.xcntHigh = s.xcntHigh) :
    frameCycle t = frameCycle s := by
  simp only [frameCycle, h, h']

@[simp] theorem applyFire_frameCycle (s : State) : frameCycle (applyFire s) = frameCycle s :=
  frameCycle_congr (by simp) (by simp)

@[simp] theorem applyFire_frameEnds (s : State) : frameEnds (applyFire s) = frameEnds s := by
  simp [frameEnds]

@[simp] theorem applyFire_countCycle_xcntHigh (s : State) :
    (countCycle (applyFire s)).xcntHigh = (countCycle s).xcntHigh := by
  simp [countCycle]

/-- A count of 0 is 0 in both parts. -/
theorem frameCycle_eq_zero {s : State} : frameCycle s = 0 ↔ s.xcnt = 0 ∧ s.xcntHigh = 0 := by
  have h0 : (0 : FrameCount).toNat = 0 := rfl
  rw [← BitVec.toNat_inj, h0, frameCycle]
  omega

/-- The part above `XCNT` is 0 wherever the count fits 24 bits (10_state.md R35). -/
theorem xcnt_of_frameCycle_lt {s : State} (h : frameCycle s < 2 ^ 24) :
    s.xcntHigh = 0 ∧ s.xcnt.toNat = frameCycle s := by
  simp only [frameCycle] at h ⊢
  omega

/-- The two parts count as one number (43_output.md R194). -/
@[simp] theorem countCycle_frameCycle (s : State) : frameCycle (countCycle s) = frameCycle s + 1 := by
  have hx := s.xcnt.isLt
  have h1 : (1 : FrameCount).toNat = 1 := rfl
  simp only [frameCycle, countCycle, BitVec.toNat_add, h1]
  split <;> omega

@[simp] theorem emitFrame_frameCycle (w : DacWord) (s : State) : frameCycle (emitFrame w s) = 0 :=
  frameCycle_eq_zero.2 ⟨rfl, rfl⟩

@[simp] theorem frameProgress_frameCycle (s : State) :
    frameCycle (frameProgress s) =
      if frameEnds s then 0 else if s.busy then frameCycle s + 1 else frameCycle s := by
  unfold frameProgress; repeat' split
  · exact frameCycle_eq_zero.2 ⟨rfl, rfl⟩
  · simp
  · rfl

@[simp] theorem putRdata_tickSelector (v : Word) (s : State) :
    tickSelector (putRdata v s) = tickSelector s := (rfl)

end Sys2Proof.Machine
end

