-- ==== Sys2Proof/Laws/Ops.lean ====
section
/-! SUPPORT. What each shared operation can do, said once: sequencing, operands and the samples of the two
emitting operations, and the one inversion of a step. Later proofs cite these and do not unfold the
operations. -/

namespace Sys2Proof.Machine

theorem andThen_eq_next {o : Host.Outcome State Fault Refusal}
    {f : State → Host.Outcome State Fault Refusal} {t : State} :
    andThen o f = .next t ↔ ∃ s, o = .next s ∧ f s = .next t := by
  cases o <;> simp [andThen]

@[simp] theorem andThen_next (s : State) (f : State → Host.Outcome State Fault Refusal) :
    andThen (.next s) f = f s := rfl

theorem withOperand_eq_next {α : Type} {o : Except Fault α} {f : α → State} {t : State} :
    withOperand o f = .next t ↔ ∃ v, o = .ok v ∧ f v = t := by
  cases o <;> simp [withOperand]

theorem romEntry_ok {α : Type} {rom : Rom} {l : List α} {i : Nat} {v : α} (h : l[i]? = some v) :
    romEntry rom l i = .ok v := by
  simp [romEntry, h]

/-- The sample of `SEG_EMIT`, from the entries it reads (42_sequencer.md R163). -/
theorem segSample_ok {c : Config} {tb : SegmentTables} {seg : Segment} {i : Nat} {phase inc : Word}
    {e : EnvCode} {raw : Sample} (hi : c.images = .segmented tb) (hinc : (tb.inc seg)[i]? = some inc)
    (henv : (tb.env seg)[i]? = some e)
    (hsine : tb.sine[sineIndex c.shift (phaseAdd phase inc)]? = some raw) :
    segSample c seg i phase =
      .ok (phaseAdd phase inc, dacWord c.ctrlNibble (mag (rawSample raw) e)) := by
  simp [segSample, readInc, readEnv, readSine, hi, romEntry_ok hinc, romEntry_ok henv,
    romEntry_ok hsine, Bind.bind, Except.bind, Except.map, Pure.pure, Except.pure]

/-- The sample of `CAT_EMIT`, from the entry it reads (42_sequencer.md R166). -/
theorem catSample_ok {c : Config} {pcm : List Sample} {i : Nat} {m : Sample}
    (hi : c.images = .concatenated pcm) (hm : pcm[i]? = some m) :
    catSample c i = .ok (dacWord c.ctrlNibble m.toNat) := by
  simp [catSample, readPcm, hi, romEntry_ok hm, Bind.bind, Except.bind, Except.map, Pure.pure,
    Except.pure]

/-- A segment's sample exists at every index below its length (20_memory.md R62). -/
theorem segSample_exists (c : Config) (tb : SegmentTables) (seg : Segment) (i : Nat) (phase : Word)
    (hi : c.images = .segmented tb) (hlt : i < c.segmentLen seg) :
    ∃ inc e raw, (tb.inc seg)[i]? = some inc ∧ (tb.env seg)[i]? = some e ∧
      tb.sine[sineIndex c.shift (phaseAdd phase inc)]? = some raw := by
  obtain ⟨hs, hn, he⟩ := c.tables_lengths tb hi
  have h1 : i < (tb.inc seg).length := by rw [hn]; exact hlt
  have h2 : i < (tb.env seg).length := by rw [he]; exact hlt
  have h3 : sineIndex c.shift (phaseAdd phase ((tb.inc seg)[i])) < tb.sine.length := by
    rw [hs]; exact c.sineIndex_lt _
  exact ⟨_, _, _, List.getElem?_eq_getElem h1, List.getElem?_eq_getElem h2,
    List.getElem?_eq_getElem h3⟩

/-- What a read command answers: the pre-edge registers with a value on `host_rdata`. -/
theorem readCommand_next (i : HostInput) (s : State) :
    ∃ v, exec i.readCommand s = .next (putRdata v s) := by
  unfold HostInput.readCommand decodeRd
  repeat' split
  all_goals exact ⟨_, rfl⟩

/-- What a write command answers: a write to `CTRL`, or nothing. -/
theorem writeCommand_next (i : HostInput) (s : State) :
    exec i.writeCommand s = .next (if writesCtrl i then writeCtrl i.wdata s else s) := by
  have key : ∀ (en : Bool) (a : BitVec 4) (d : Word),
      exec (decodeWr (hostWord en a) d) s = .next (if en && a == 0 then writeCtrl d s else s) := by
    intro en a d
    have hen : ∀ (en : Bool) (a : BitVec 4), hostEnable (hostWord en a) = en := by decide
    have had : ∀ (en : Bool) (a : BitVec 4), hostAddr (hostWord en a) = a := by decide
    unfold decodeWr
    rw [hen, had]
    cases en
    · rfl
    · have hcase : a = 0 ∨ a.toNat ≠ 0 := by
        revert a; decide
      rcases hcase with rfl | ha
      · rfl
      · have hne : (a == 0) = false := by
          revert a; decide
        simp only [if_true, hne, Bool.and_false]
        split
        · contradiction
        all_goals rfl
  exact key i.we i.addr i.wdata

/-- Once and for all, what a step does: a read, then a reset or an edge of normal operation. -/
theorem step_cases {s t : State} (h : step s = .next t) :
    ∃ v, (s.input.rst = true ∧ t = applyReset (nextCycle (putRdata v s))) ∨
      (s.input.rst = false ∧ ∃ u,
        tickOperation (putRdata v s) (beforeTick (putRdata v s)) = .next u ∧
        t = nextCycle (timeBase (if writesCtrl s.input then writeCtrl s.input.wdata u else u))) := by
  obtain ⟨v, hv⟩ := readCommand_next s.input s
  refine ⟨v, ?_⟩
  unfold step edge at h
  rw [hv] at h
  simp only [andThen_next, putRdata_input] at h
  cases hr : s.input.rst
  · right
    simp only [hr, Bool.false_eq_true, if_false] at h
    unfold runningEdge at h
    obtain ⟨u, hu, h⟩ := andThen_eq_next.1 h
    obtain ⟨w, hw, h⟩ := andThen_eq_next.1 h
    rw [writeCommand_next] at hw
    simp only [Host.Outcome.next.injEq] at hw h
    simp only [putRdata_input] at hw
    exact ⟨rfl, u, hu, by rw [← h, ← hw]⟩
  · left
    simp only [hr, if_true, resetEdge, Host.Outcome.next.injEq] at h
    exact ⟨rfl, h.symm⟩

end Sys2Proof.Machine

namespace Sys2Proof.Machine

/-- The operation the tick selector picks (30_encoding.md R85). -/
theorem decode_tickSelector (s : State) :
    decode (.ticksel (tickSelector s)) =
      match s.cfg.policy, s.seg, atEnd s with
      | .segmented, seg, false => .segEmit seg
      | .segmented, .swoop, true => .segFlipS2C
      | .segmented, .chirp, true => .segFlipC2SRest
      | .concatenated, seg, false => .catEmit seg
      | .concatenated, seg, true => .catWrapRest seg := by
  unfold tickSelector
  cases s.cfg.policy <;> cases s.seg <;> cases atEnd s <;> rfl

@[simp] theorem beforeTick_cfg (s : State) : (beforeTick s).cfg = s.cfg := by simp [beforeTick]
@[simp] theorem beforeTick_phase (s : State) : (beforeTick s).phase = s.phase := by simp [beforeTick]
@[simp] theorem beforeTick_seg (s : State) : (beforeTick s).seg = s.seg := by simp [beforeTick]
@[simp] theorem beforeTick_idx (s : State) : (beforeTick s).idx = s.idx := by simp [beforeTick]
@[simp] theorem beforeTick_time (s : State) : (beforeTick s).time = s.time := by simp [beforeTick]
@[simp] theorem beforeTick_presc (s : State) : (beforeTick s).presc = s.presc := by simp [beforeTick]
@[simp] theorem beforeTick_alarm (s : State) : (beforeTick s).alarm = s.alarm := by simp [beforeTick]
@[simp] theorem beforeTick_armed (s : State) :
    (beforeTick s).armed = if fires s then false else s.armed := by simp [beforeTick]
@[simp] theorem beforeTick_pending (s : State) :
    (beforeTick s).pending = if fires s then true else s.pending := by simp [beforeTick]
@[simp] theorem beforeTick_enable (s : State) : (beforeTick s).enable = s.enable := by
  simp [beforeTick]
@[simp] theorem beforeTick_busy (s : State) :
    (beforeTick s).busy = (s.busy && !frameEnds s) := by
  simp [beforeTick]
@[simp] theorem beforeTick_xcnt (s : State) :
    (beforeTick s).xcnt = if frameEnds s then 0 else if s.busy then s.xcnt + 1 else s.xcnt := by
  simp [beforeTick]
@[simp] theorem beforeTick_lastWord (s : State) : (beforeTick s).lastWord = s.lastWord := by
  simp [beforeTick]
@[simp] theorem beforeTick_valid (s : State) : (beforeTick s).valid = s.valid := by simp [beforeTick]
@[simp] theorem beforeTick_probePulse (s : State) : (beforeTick s).probePulse = false := by
  simp [beforeTick]
@[simp] theorem beforeTick_missed (s : State) : (beforeTick s).missed = s.missed := by
  simp [beforeTick]
@[simp] theorem beforeTick_hostRdata (s : State) : (beforeTick s).hostRdata = s.hostRdata := by
  simp [beforeTick]
@[simp] theorem beforeTick_inputs (s : State) : (beforeTick s).inputs = s.inputs := by
  simp [beforeTick]
@[simp] theorem beforeTick_xcntHigh (s : State) :
    (beforeTick s).xcntHigh =
      if frameEnds s then 0 else if s.busy then (countCycle s).xcntHigh else s.xcntHigh := by
  simp [beforeTick]

/-- What the logic before a tick operation does to a frame's count (43_output.md R194). -/
@[simp] theorem beforeTick_frameCycle (s : State) :
    frameCycle (beforeTick s) =
      if frameEnds s then 0 else if s.busy then frameCycle s + 1 else frameCycle s := by
  have hc : frameCycle (beforeTick s) = frameCycle (frameProgress (applyFire s)) :=
    frameCycle_congr rfl rfl
  simp [hc]

end Sys2Proof.Machine
end

