-- ==== Sys2Proof/Laws/PerInstr.lean ====
section
/-! SUPPORT. One law per operation: the word that `encode` writes for a well-formed operation fits the row of
spec/opcode_table.json it stands for (30_encoding.md R85, R87, R88). -/

namespace Sys2Proof.Laws.TableRow

/-- The mask and the match of an operation's row (30_encoding.md R85, R87, R88). -/
def row : Instr → Nat × Nat
  | .segEmit _ => (0b101, 0b000)
  | .segFlipS2C => (0b111, 0b001)
  | .segFlipC2SRest => (0b111, 0b011)
  | .catEmit _ => (0b101, 0b100)
  | .catWrapRest _ => (0b101, 0b101)
  | .rdCtrl => (0x1F, 0x10)
  | .rdStatus => (0x1F, 0x11)
  | .rdPhase => (0x1F, 0x12)
  | .rdIndex => (0x1F, 0x13)
  | .rdTime => (0x1F, 0x14)
  | .rdAlarm => (0x1F, 0x15)
  | .rdMissed => (0x1F, 0x16)
  | .rdLastWord => (0x1F, 0x17)
  | .rdCfg0 => (0x1F, 0x18)
  | .rdCfgLenA => (0x1F, 0x19)
  | .rdCfgLenB => (0x1F, 0x1A)
  | .rdCfgPeriod => (0x1F, 0x1B)
  | .rdCfgRest => (0x1F, 0x1C)
  | .rdRsvdD => (0x1F, 0x1D)
  | .rdRsvdEF _ => (0x1E, 0x1E)
  | .rdNone _ => (0x10, 0x00)
  | .wrCtrl _ => (0x1F, 0x10)
  | .wrIgn1 _ => (0x1F, 0x11)
  | .wrIgn23 _ _ => (0x1E, 0x12)
  | .wrIgn47 _ _ => (0x1C, 0x14)
  | .wrIgn8F _ _ => (0x18, 0x18)
  | .wrNone _ _ => (0x10, 0x00)

/-- The selector or command bits of a word, without `host_wdata`. -/
def commandBits : RawWord → Nat
  | .ticksel b => b.toNat
  | .hostRd b => b.toNat
  | .hostWr b _ => b.toNat

/-- A well-formed operation's word fits its row. -/
def Statement (i : Instr) : Prop :=
  i.wf = true → commandBits (encode i) &&& (row i).1 = (row i).2

theorem segEmit (s : Segment) : Statement (.segEmit s) := by cases s <;> exact fun _ => by decide
theorem segFlipS2C : Statement .segFlipS2C := fun _ => by decide
theorem segFlipC2SRest : Statement .segFlipC2SRest := fun _ => by decide
theorem catEmit (s : Segment) : Statement (.catEmit s) := by cases s <;> exact fun _ => by decide
theorem catWrapRest (s : Segment) : Statement (.catWrapRest s) := by cases s <;> exact fun _ => by decide
theorem rdCtrl : Statement .rdCtrl := fun _ => by decide
theorem rdStatus : Statement .rdStatus := fun _ => by decide
theorem rdPhase : Statement .rdPhase := fun _ => by decide
theorem rdIndex : Statement .rdIndex := fun _ => by decide
theorem rdTime : Statement .rdTime := fun _ => by decide
theorem rdAlarm : Statement .rdAlarm := fun _ => by decide
theorem rdMissed : Statement .rdMissed := fun _ => by decide
theorem rdLastWord : Statement .rdLastWord := fun _ => by decide
theorem rdCfg0 : Statement .rdCfg0 := fun _ => by decide
theorem rdCfgLenA : Statement .rdCfgLenA := fun _ => by decide
theorem rdCfgLenB : Statement .rdCfgLenB := fun _ => by decide
theorem rdCfgPeriod : Statement .rdCfgPeriod := fun _ => by decide
theorem rdCfgRest : Statement .rdCfgRest := fun _ => by decide
theorem rdRsvdD : Statement .rdRsvdD := fun _ => by decide
theorem rdRsvdEF (a : BitVec 4) : Statement (.rdRsvdEF a) := by unfold Statement; revert a; decide
theorem rdNone (a : BitVec 4) : Statement (.rdNone a) := by unfold Statement; revert a; decide
theorem wrCtrl (d : Word) : Statement (.wrCtrl d) := fun _ =>
  show (0x10 : BitVec 5).toNat &&& 0x1F = 0x10 by decide
theorem wrIgn1 (d : Word) : Statement (.wrIgn1 d) := fun _ =>
  show (0x11 : BitVec 5).toNat &&& 0x1F = 0x11 by decide

/-- The write rows that cover several addresses, for every address at once. -/
theorem write_rows :
    (∀ a : BitVec 4, 2 ≤ a.toNat ∧ a.toNat ≤ 3 → (hostWord true a).toNat &&& 0x1E = 0x12) ∧
    (∀ a : BitVec 4, 4 ≤ a.toNat ∧ a.toNat ≤ 7 → (hostWord true a).toNat &&& 0x1C = 0x14) ∧
    (∀ a : BitVec 4, 8 ≤ a.toNat → (hostWord true a).toNat &&& 0x18 = 0x18) ∧
    (∀ a : BitVec 4, (hostWord false a).toNat &&& 0x10 = 0) := by decide

theorem wrIgn23 (a : BitVec 4) (d : Word) : Statement (.wrIgn23 a d) := fun h =>
  write_rows.1 a (of_decide_eq_true h)
theorem wrIgn47 (a : BitVec 4) (d : Word) : Statement (.wrIgn47 a d) := fun h =>
  write_rows.2.1 a (of_decide_eq_true h)
theorem wrIgn8F (a : BitVec 4) (d : Word) : Statement (.wrIgn8F a d) := fun h =>
  write_rows.2.2.1 a (of_decide_eq_true h)
theorem wrNone (a : BitVec 4) (d : Word) : Statement (.wrNone a d) := fun _ => write_rows.2.2.2 a

end Sys2Proof.Laws.TableRow
end

