-- ==== Sys2Proof/Laws/Range.lean ====
section
/-! SUPPORT. The decision of 00_scope.md R10 (h) for rational frequencies is exact: `peakBelow` compares a
rational with the peak of the sine, `swoopInRange` and `chirpInRange` say that every increment of the real
formulas lies in the interval that rounds into `[0, 2^32 - 1]`, and `rationalInRange_iff` joins them. -/

namespace Sys2Proof.Machine

open Real

/-- The polynomials that `chebyshevPositive` runs through are the cosines of the multiples of an angle. -/
theorem chebyshevPositive_iff {θ : ℝ} {r : ℚ} (hr : (r : ℝ) = cos θ) (n k : Nat) (t0 t1 : ℚ)
    (h0 : (t0 : ℝ) = cos (k * θ)) (h1 : (t1 : ℝ) = cos ((k + 1 : ℕ) * θ)) :
    chebyshevPositive r n t0 t1 = true ↔ ∀ j, k < j → j ≤ k + n → 0 < cos (j * θ) := by
  induction n generalizing k t0 t1 with
  | zero => simp [chebyshevPositive]; intros; omega
  | succ n ih =>
    have h2 : ((2 * r * t1 - t0 : ℚ) : ℝ) = cos ((k + 1 + 1 : ℕ) * θ) := by
      have e : ((k + 1 + 1 : ℕ) : ℝ) * θ = (k + 1 : ℕ) * θ + θ := by push_cast; ring
      have e' : (k : ℝ) * θ = (k + 1 : ℕ) * θ - θ := by push_cast; ring
      rw [e, cos_add]
      rw [e', cos_sub] at h0
      rw [Rat.cast_sub, Rat.cast_mul, Rat.cast_mul, Rat.cast_ofNat, h0, h1, hr]; ring
    have hpos : 0 < t1 ↔ 0 < cos ((k + 1 : ℕ) * θ) := by rw [← h1]; exact_mod_cast Iff.rfl
    simp only [chebyshevPositive, Bool.and_eq_true, decide_eq_true_eq, ih (k + 1) t1 _ h1 h2, hpos]
    constructor
    · rintro ⟨ha, hb⟩ j hj hj'
      rcases Nat.lt_or_ge (k + 1) j with h | h
      · exact hb j h (by omega)
      · obtain rfl : j = k + 1 := by omega
        exact ha
    · exact fun h => ⟨h _ (by omega) (by omega), fun j hj hj' => h j (by omega) (by omega)⟩

/-- Between -π/2 and π/2 from a step of at most π/2, the first multiple past π/2 has no positive cosine. -/
theorem multiples_positive_iff {θ : ℝ} (h0 : 0 < θ) (h1 : θ ≤ π / 2) {n : Nat} (hn : 1 ≤ n) :
    (∀ j : ℕ, 0 < j → j ≤ 0 + n → 0 < cos (j * θ)) ↔ θ < π / (2 * n) := by
  have hn' : (0 : ℝ) < n := by exact_mod_cast hn
  rw [lt_div_iff₀ (by positivity)]
  constructor
  · intro h
    by_contra hge
    have hex : ∃ j : ℕ, π / 2 ≤ j * θ := ⟨n, by linarith⟩
    classical
    set j := Nat.find hex
    have hj : π / 2 ≤ j * θ := Nat.find_spec hex
    have hjn : j ≤ n := Nat.find_min' hex (by linarith)
    have hj0 : 0 < j := by
      rcases Nat.eq_zero_or_pos j with hz | hz
      · rw [hz] at hj; simp at hj; linarith [pi_pos]
      · exact hz
    have hlt : ¬π / 2 ≤ (j - 1 : ℕ) * θ := Nat.find_min hex (by omega)
    rw [Nat.cast_sub hj0] at hlt
    push_cast at hlt
    have := h j hj0 (by omega)
    exact absurd this (not_lt.2 (cos_nonpos_of_pi_div_two_le_of_le hj (by nlinarith)))
  · intro h j hj hjn
    have hjn' : (j : ℝ) ≤ n := by exact_mod_cast (by omega : j ≤ n)
    exact cos_pos_of_mem_Ioo ⟨by have := pi_pos; nlinarith, by nlinarith⟩

/-- The peak of the sine over the samples of an odd region is a cosine. -/
theorem sin_le_peak {len i : Nat} (hodd : len % 2 = 1) (hi : i < len) :
    sin (π * i / len) ≤ cos (π / (2 * len)) := by
  have hl : (0 : ℝ) < len := by exact_mod_cast (by omega : 0 < len)
  have hp := pi_pos
  rw [← cos_pi_div_two_sub, ← cos_abs (π / 2 - _)]
  have e : π / 2 - π * i / len = π / (2 * len) * ((len : ℝ) - 2 * i) := by field_simp
  have hd : (1 : ℝ) ≤ |(len : ℝ) - 2 * i| := by
    have : (1 : ℤ) ≤ |(len : ℤ) - 2 * i| := Int.one_le_abs (by omega)
    exact_mod_cast this
  have hu : |(len : ℝ) - 2 * i| ≤ len := by
    have : |(len : ℤ) - 2 * i| ≤ len := by rw [abs_le]; omega
    exact_mod_cast this
  have hq : 0 < π / (2 * len) := by positivity
  have hm : π / (2 * len) * len ≤ π := by rw [div_mul_eq_mul_div, div_le_iff₀ (by positivity)]; nlinarith
  rw [e, abs_mul, abs_of_pos hq]
  exact cos_le_cos_of_nonneg_of_le_pi hq.le (by nlinarith) (by nlinarith)

/-- `peakBelow` is exact. -/
theorem peakBelow_iff {len : Nat} {r : ℚ} (hl : 1 ≤ len) (hr : 0 < r) :
    peakBelow len r = true ↔ ∀ i, i < len → sin (π * i / len) < r := by
  have hl' : (0 : ℝ) < len := by exact_mod_cast hl
  have hp := pi_pos
  unfold peakBelow
  split_ifs with he
  · rw [decide_eq_true_eq]
    constructor
    · intro h i _
      exact (sin_le_one _).trans_lt (by exact_mod_cast h)
    · intro h
      have e : π * (len / 2 : ℕ) / len = π / 2 := by
        rw [Nat.cast_div (by omega) (by norm_num)]; push_cast; field_simp
      have := h (len / 2) (by omega)
      rw [e, sin_pi_div_two] at this
      exact_mod_cast this
  · have hodd : len % 2 = 1 := by omega
    have hpeak : (∀ i, i < len → sin (π * i / len) < (r : ℝ)) ↔ cos (π / (2 * len)) < r := by
      constructor
      · intro h
        have e : π * (len / 2 : ℕ) / len = π / 2 - π / (2 * len) := by
          have : (len : ℝ) = 2 * (len / 2 : ℕ) + 1 := by exact_mod_cast (by omega : len = 2 * (len / 2) + 1)
          generalize ((len / 2 : ℕ) : ℝ) = m at this ⊢
          field_simp; rw [this]; ring
        have := h (len / 2) (by omega)
        rwa [e, sin_pi_div_two_sub] at this
      · exact fun h i hi => (sin_le_peak hodd hi).trans_lt h
    rw [hpeak, Bool.or_eq_true, decide_eq_true_eq]
    have hq : 0 < π / (2 * len) := by positivity
    have hq' : π / (2 * len) ≤ π / 2 := by
      apply div_le_div_of_nonneg_left hp.le (by norm_num)
      have : (1 : ℝ) ≤ len := by exact_mod_cast hl
      linarith
    rcases le_or_gt 1 r with h1 | h1
    · simp only [h1, true_or, true_iff]
      have hc : cos (π / (2 * len)) < cos 0 :=
        cos_lt_cos_of_nonneg_of_le_pi_div_two le_rfl hq' hq
      rw [cos_zero] at hc
      exact hc.trans_le (by exact_mod_cast h1)
    · have hr' : (0 : ℝ) < r := by exact_mod_cast hr
      have h1' : (r : ℝ) < 1 := by exact_mod_cast h1
      have hcos : (r : ℝ) = cos (arccos r) := (cos_arccos (by linarith) h1'.le).symm
      have ht0 : 0 < arccos r := arccos_pos.2 h1'
      have ht1 : arccos r ≤ π / 2 := arccos_le_pi_div_two.2 hr'.le
      have hcp := chebyshevPositive_iff hcos len 0 1 r (by simp) (by simpa using hcos)
      rw [hcp, multiples_positive_iff ht0 ht1 hl]
      constructor
      · rintro (h | h)
        · exact absurd h (not_le.2 h1)
        · rw [hcos]
          exact cos_lt_cos_of_nonneg_of_le_pi_div_two ht0.le hq' h
      · intro h
        right
        by_contra hge
        rw [hcos] at h
        exact absurd h (not_lt.2 (cos_le_cos_of_nonneg_of_le_pi hq.le (by linarith) (not_lt.1 hge)))

/-- `roundsInRange` over the reals. -/
theorem roundsInRange_real (x : ℚ) :
    roundsInRange x = true ↔ (-1 / 2 : ℝ) < x ∧ (x : ℝ) < 2 ^ 32 - 1 / 2 := by
  simp only [roundsInRange, Bool.and_eq_true, decide_eq_true_eq]
  rw [← Rat.cast_lt (K := ℝ), ← Rat.cast_lt (K := ℝ) (p := x)]
  push_cast
  exact Iff.rfl

/-- Where the rounded value of a real lies (00_scope.md R12). -/
theorem roundsTo_inRange_iff {x : ℝ} {n : ℤ} (h : RoundsTo x n) :
    (0 ≤ n ∧ n ≤ 2 ^ 32 - 1) ↔ -1 / 2 < x ∧ x < 2 ^ 32 - 1 / 2 := by
  obtain ⟨hp, hm⟩ := h
  symm
  rcases le_or_gt 0 x with h0 | h0
  · obtain ⟨a, b⟩ := hp h0
    constructor
    · rintro ⟨-, hu⟩
      have h1 : (-1 : ℝ) < n := by linarith
      have h2 : (n : ℝ) < 2 ^ 32 := by linarith
      have h1' : (-1 : ℤ) < n := by exact_mod_cast h1
      have h2' : n < 2 ^ 32 := by exact_mod_cast h2
      omega
    · rintro ⟨-, hu⟩
      have : (n : ℝ) ≤ 2 ^ 32 - 1 := by exact_mod_cast hu
      constructor <;> linarith
  · obtain ⟨a, b⟩ := hm h0
    constructor
    · rintro ⟨hl, -⟩
      have h1 : (-1 : ℝ) < n := by linarith
      have h2 : (n : ℝ) < 1 := by linarith
      have h1' : (-1 : ℤ) < n := by exact_mod_cast h1
      have h2' : n < 1 := by exact_mod_cast h2
      omega
    · rintro ⟨hl, -⟩
      have : (0 : ℝ) ≤ n := by exact_mod_cast hl
      constructor <;> linarith

/-- Every real rounds to some integer (00_scope.md R12). -/
theorem exists_roundsTo (x : ℝ) : ∃ n, RoundsTo x n := by
  rcases le_or_gt 0 x with h | h
  · exact ⟨⌊x + 1 / 2⌋, fun _ => ⟨Int.floor_le _, Int.lt_floor_add_one _⟩, fun h' => absurd h (not_le.2 h')⟩
  · refine ⟨-⌊-x + 1 / 2⌋, fun h' => absurd h (not_lt.2 h'), fun _ => ?_⟩
    push_cast
    rw [neg_neg]
    exact ⟨Int.floor_le _, Int.lt_floor_add_one _⟩

/-- The range of the rounded entries is an interval of the values before rounding. -/
theorem inRange_iff {f : Nat → ℝ} {rate len : Nat} (hr : rate ≠ 0) :
    InRange f rate len ↔
      ∀ i, i < len → -1 / 2 < f i * 2 ^ 32 / rate ∧ f i * 2 ^ 32 / rate < 2 ^ 32 - 1 / 2 := by
  constructor
  · intro h i hi
    obtain ⟨n, hn⟩ := exists_roundsTo (f i * 2 ^ 32 / rate)
    exact (roundsTo_inRange_iff hn).1 (h i n hi ⟨hr, hn⟩)
  · exact fun h i n hi hn => (roundsTo_inRange_iff hn.2).2 (h i hi)

/-- `swoopInRange` says that every SWOOP increment lies strictly between -1/2 and 2^32 - 1/2. -/
theorem swoopInRange_iff (rate len : Nat) (c d : ℚ) :
    swoopInRange rate len c d = true ↔
      ∀ i, i < len →
        (-1 / 2 : ℝ) < scaledHz rate c + scaledHz rate d * sin (π * i / len) ∧
        (scaledHz rate c + scaledHz rate d * sin (π * i / len) : ℝ) < 2 ^ 32 - 1 / 2 := by
  rcases Nat.eq_zero_or_pos len with rfl | hl
  · simp [swoopInRange]
  have hl' : (0 : ℝ) < len := by exact_mod_cast hl
  have hs : ∀ i, i < len → 0 ≤ sin (π * i / len) := by
    intro i hi
    have hi' : (i : ℝ) ≤ len := by exact_mod_cast hi.le
    apply sin_nonneg_of_nonneg_of_le_pi (by positivity)
    rw [div_le_iff₀ hl']
    exact mul_le_mul_of_nonneg_left hi' pi_pos.le
  unfold swoopInRange
  generalize scaledHz rate c = u
  generalize scaledHz rate d = v
  simp only [Bool.or_eq_true, Bool.and_eq_true, beq_iff_eq, hl.ne', false_or]
  rw [roundsInRange_real]
  -- the entry at 0 is the centre
  have hzero : (∀ i, i < len → (-1 / 2 : ℝ) < u + v * sin (π * i / len) ∧
      (u + v * sin (π * i / len) : ℝ) < 2 ^ 32 - 1 / 2) →
      (-1 / 2 : ℝ) < u ∧ (u : ℝ) < 2 ^ 32 - 1 / 2 := by
    intro h; simpa using h 0 hl
  split_ifs with hv hv'
  · have hvr : (0 : ℝ) < v := by exact_mod_cast hv
    constructor
    · rintro ⟨⟨h1, h2⟩, h3⟩ i hi
      have hr : 0 < (2 ^ 32 - 1 / 2 - u) / v := by
        have : u < 2 ^ 32 - 1 / 2 := by rw [← Rat.cast_lt (K := ℝ)]; push_cast; exact h2
        exact div_pos (by linarith) hv
      have := (peakBelow_iff hl hr).1 h3 i hi
      push_cast at this
      rw [lt_div_iff₀ hvr] at this
      constructor <;> nlinarith [hs i hi]
    · intro h
      obtain ⟨h1, h2⟩ := hzero h
      refine ⟨⟨h1, h2⟩, ?_⟩
      have hr : 0 < (2 ^ 32 - 1 / 2 - u) / v := by
        have : u < 2 ^ 32 - 1 / 2 := by rw [← Rat.cast_lt (K := ℝ)]; push_cast; exact h2
        exact div_pos (by linarith) hv
      rw [peakBelow_iff hl hr]
      intro i hi
      push_cast
      rw [lt_div_iff₀ hvr]
      linarith [(h i hi).2]
  · have hvr : (v : ℝ) < 0 := by exact_mod_cast hv'
    constructor
    · rintro ⟨⟨h1, h2⟩, h3⟩ i hi
      have hr : 0 < (u + 1 / 2) / -v := by
        have : -1 / 2 < u := by rw [← Rat.cast_lt (K := ℝ)]; push_cast; exact h1
        exact div_pos (by linarith) (by linarith)
      have := (peakBelow_iff hl hr).1 h3 i hi
      push_cast at this
      rw [lt_div_iff₀ (by linarith)] at this
      constructor <;> nlinarith [hs i hi]
    · intro h
      obtain ⟨h1, h2⟩ := hzero h
      refine ⟨⟨h1, h2⟩, ?_⟩
      have hr : 0 < (u + 1 / 2) / -v := by
        have : -1 / 2 < u := by rw [← Rat.cast_lt (K := ℝ)]; push_cast; exact h1
        exact div_pos (by linarith) (by linarith)
      rw [peakBelow_iff hl hr]
      intro i hi
      push_cast
      rw [lt_div_iff₀ (by linarith)]
      linarith [(h i hi).1]
  · have hv0 : v = 0 := le_antisymm (not_lt.1 hv) (not_lt.1 hv')
    constructor
    · rintro ⟨h, -⟩ i _
      simpa [hv0] using h
    · exact fun h => ⟨hzero h, rfl⟩

/-- The real frequencies of rational parameters. -/
def rationalWaveform (center dev f0 a : ℚ) : Waveform := ⟨center, dev, f0, a⟩

/-- The decision of 00_scope.md R10 (h) for rational frequencies is exact. -/
theorem rationalInRange_iff (rate swoopLen chirpLen : Nat) (center dev f0 a : ℚ) :
    rationalInRange rate swoopLen chirpLen center dev f0 a = true ↔
      (rationalWaveform center dev f0 a).IncrementsInRange rate swoopLen chirpLen := by
  unfold rationalInRange Waveform.IncrementsInRange
  simp only [Bool.and_eq_true, bne_iff_ne, and_assoc]
  refine and_congr_right fun hr => and_congr ?_ ?_
  · rw [swoopInRange_iff, inRange_iff hr]
    refine forall₂_congr fun i _ => ?_
    have e : swoopHz (rationalWaveform center dev f0 a) swoopLen i * 2 ^ 32 / rate =
        (scaledHz rate center : ℝ) + (scaledHz rate dev : ℝ) * sin (π * i / swoopLen) := by
      have e' : -(π * i) / (swoopLen : ℝ) = -(π * i / swoopLen) := by ring
      simp only [swoopHz, rationalWaveform, scaledHz, e', sin_neg]
      push_cast
      ring
    rw [e]
  · rw [inRange_iff hr]
    simp only [chirpInRange, List.all_eq_true, List.mem_range, roundsInRange_real]
    refine forall₂_congr fun i _ => ?_
    have e : chirpHz (rationalWaveform center dev f0 a) i * 2 ^ 32 / rate =
        (scaledHz rate (a * (i : ℚ) ^ 2 + f0) : ℝ) := by
      simp only [chirpHz, rationalWaveform, scaledHz]
      push_cast
      ring
    rw [e]

end Sys2Proof.Machine

namespace Sys2Proof

/-- Whether the increments of a record with rational frequencies fit, decided. -/
theorem ConfigRecord.incrementsFit_iff {r : ConfigRecord} {center dev f0 a : ℚ}
    (h : r.toWaveform = Machine.rationalWaveform center dev f0 a) :
    r.IncrementsFit ↔ (r.increments = .generated →
      Machine.rationalInRange r.sampleRateHz r.swoopLen r.chirpLen center dev f0 a = true) := by
  unfold ConfigRecord.IncrementsFit
  rw [h, Machine.rationalInRange_iff]

end Sys2Proof
end

