-- ==== Sys2Proof/Tests/Slice0.lean ====
section
/-! SUPPORT. Named tests. Expected values come from the spec: the encoding tables of 30_encoding.md, the worked
examples and vectors of 95_test_vectors.md. The last part gives a witness for the hypotheses of each
statement that has some. -/

namespace Sys2Proof.Tests

open Sys2Proof.Machine

/-! ### Configurations of 95_test_vectors.md section 0 -/

/-- The tables of `T6`. -/
def t6Tables : SegmentTables where
  sine := sineTable256
  incSwoop := List.replicate 6 0x10000000
  incChirp := List.replicate 6 0x20000000
  envSwoop := [0, 16384, 32768, 32768, 16384, 0]
  envChirp := [0, 16384, 32768, 32768, 16384, 0]

/-- `T6` with a period, a clock rate and a serial clock. -/
def t6Params (periodUs clkPerUs sclkHalf : Nat) : Params where
  sampleRateHz := 50000
  periodUs := periodUs
  restUs := 30
  sineBits := 8
  ctrlNibble := 0x3
  swoopLen := 6
  chirpLen := 6
  rampLen := 2
  restLen := 1
  clkPerUs := clkPerUs
  sclkHalf := sclkHalf
  images := .segmented t6Tables

theorem test_t6_admitted : (t6Params 20 2 1).broken = none := by decide +kernel
theorem test_f2_admitted : (t6Params 2 16 1).broken = none := by decide +kernel
theorem test_t6s2_admitted : (t6Params 20 2 2).broken = none := by decide +kernel

/-- `T6`. -/
def t6 : Config := ⟨t6Params 20 2 1, test_t6_admitted⟩
/-- `F2`. -/
def f2 : Config := ⟨t6Params 2 16 1, test_f2_admitted⟩
/-- `T6S2`. -/
def t6s2 : Config := ⟨t6Params 20 2 2, test_t6s2_admitted⟩

/-- `C5`. -/
def c5Params : Params where
  sampleRateHz := 50000
  periodUs := 20
  restUs := 10
  sineBits := 8
  ctrlNibble := 0x3
  swoopLen := 2
  chirpLen := 2
  rampLen := 1
  restLen := 1
  clkPerUs := 2
  sclkHalf := 1
  images := .concatenated [100, 200, 0, 300, 4095]

theorem test_c5_admitted : c5Params.broken = none := by decide +kernel

/-- `C5`. -/
def c5 : Config := ⟨c5Params, test_c5_admitted⟩

/-- A register of the state after one edge. -/
def afterEdge {α : Type} (f : State → α) (s : State) : Option α :=
  match step s with
  | .next t => some (f t)
  | .fault _ => none
  | .refused _ => none

/-- A state one edge before an on-time tick: enabled, a firing pending, `PRESC = 1`. -/
def tickState (c : Config) (phase : Word) (seg : Segment) (idx : Index) (time : Word) : State :=
  { State.resetOf c [] with
    phase := phase, seg := seg, idx := idx, time := time, alarm := time, presc := 1
    enable := true, pending := true }

/-! ### Decoding: words written out from 30_encoding.md R85, R87, R88 -/

/-- R85, all eight selectors. -/
theorem test_decode_ticksel :
    decode (.ticksel 0b000) = .segEmit .swoop ∧ decode (.ticksel 0b010) = .segEmit .chirp ∧
    decode (.ticksel 0b001) = .segFlipS2C ∧ decode (.ticksel 0b011) = .segFlipC2SRest ∧
    decode (.ticksel 0b100) = .catEmit .swoop ∧ decode (.ticksel 0b110) = .catEmit .chirp ∧
    decode (.ticksel 0b101) = .catWrapRest .swoop ∧ decode (.ticksel 0b111) = .catWrapRest .chirp := by
  decide

/-- R87, the register reads. -/
theorem test_decode_reads :
    decode (.hostRd 0b10000) = .rdCtrl ∧ decode (.hostRd 0b10001) = .rdStatus ∧
    decode (.hostRd 0b10010) = .rdPhase ∧ decode (.hostRd 0b10011) = .rdIndex ∧
    decode (.hostRd 0b10100) = .rdTime ∧ decode (.hostRd 0b10101) = .rdAlarm ∧
    decode (.hostRd 0b10110) = .rdMissed ∧ decode (.hostRd 0b10111) = .rdLastWord := by decide

/-- R87, the configuration reads. -/
theorem test_decode_config_reads :
    decode (.hostRd 0b11000) = .rdCfg0 ∧ decode (.hostRd 0b11001) = .rdCfgLenA ∧
    decode (.hostRd 0b11010) = .rdCfgLenB ∧ decode (.hostRd 0b11011) = .rdCfgPeriod ∧
    decode (.hostRd 0b11100) = .rdCfgRest := by decide

/-- R87, R89, the reserved reads and the absent read. -/
theorem test_decode_reserved_reads :
    decode (.hostRd 0b11101) = .rdRsvdD ∧ decode (.hostRd 0b11110) = .rdRsvdEF 0xE ∧
    decode (.hostRd 0b11111) = .rdRsvdEF 0xF ∧ decode (.hostRd 0b00000) = .rdNone 0x0 ∧
    decode (.hostRd 0b01111) = .rdNone 0xF := by decide

/-- R88, the write rows, at the ends of their address ranges. -/
theorem test_decode_writes :
    decode (.hostWr 0b10000 7) = .wrCtrl 7 ∧ decode (.hostWr 0b10001 7) = .wrIgn1 7 ∧
    decode (.hostWr 0b10010 7) = .wrIgn23 0x2 7 ∧ decode (.hostWr 0b10011 7) = .wrIgn23 0x3 7 ∧
    decode (.hostWr 0b10100 7) = .wrIgn47 0x4 7 ∧ decode (.hostWr 0b10111 7) = .wrIgn47 0x7 7 ∧
    decode (.hostWr 0b11000 7) = .wrIgn8F 0x8 7 ∧ decode (.hostWr 0b11111 7) = .wrIgn8F 0xF 7 ∧
    decode (.hostWr 0b00000 7) = .wrNone 0x0 7 ∧ decode (.hostWr 0b01111 7) = .wrNone 0xF 7 := by
  decide

/-- 95_test_vectors.md Part 3, the script encodings. -/
theorem test_vectors_of_commands :
    resetCycle.toVector = 0x4000000000 ∧ HostInput.nop.toVector = 0 ∧
    (wrCycle 0x0 1).toVector = 0x2000000001 ∧ (wrCycle 0x0 0).toVector = 0x2000000000 ∧
    (rdwrCycle 0x0 1).toVector = 0x3000000001 ∧ (wrCycle 0x2 0x12345678).toVector = 0x2212345678 ∧
    (rdCycle 0x7).toVector = 0x1700000000 ∧ (rdCycle 0xA).toVector = 0x1A00000000 := by decide

/-- The same vectors read back. -/
theorem test_vectors_read_back :
    HostInput.ofVector 0x2212345678 = wrCycle 0x2 0x12345678 ∧
    HostInput.ofVector 0x3000000001 = rdwrCycle 0x0 1 ∧
    HostInput.ofVector 0x4000000000 = resetCycle := by decide

/-- Words with bits their format does not have are refused. -/
theorem test_table_words_refused :
    decodeTableWord 8 32 = none ∧ decodeTableWord 40 (2 ^ 37) = none ∧
    decodeTableWord 8 0b011 = some .segFlipC2SRest ∧ decodeTableWord 8 0b10100 = some .rdTime ∧
    decodeTableWord 40 (0x10 + 32 * 5) = some (.wrCtrl 5) := by decide

/-! ### Well-formedness: each check refuses an ill-formed term -/

theorem test_wf_refuses_operands :
    (Instr.rdRsvdEF 0xD).wf = false ∧ (Instr.wrIgn23 0x1 0).wf = false ∧
    (Instr.wrIgn23 0x4 0).wf = false ∧ (Instr.wrIgn47 0x3 0).wf = false ∧
    (Instr.wrIgn47 0x8 0).wf = false ∧ (Instr.wrIgn8F 0x7 0).wf = false := by decide

/-- An ill-formed half, an operation that is no read, and two addresses in one cycle. -/
theorem test_cycleWf_refuses :
    cycleWf (.rdRsvdEF 0xD) (.wrNone 0xD 0) = false ∧ cycleWf .rdRsvdD (.wrIgn8F 0x7 0) = false ∧
    cycleWf (.segEmit .swoop) (.wrCtrl 0) = false ∧ cycleWf .rdTime (.wrCtrl 0) = false := by decide

theorem test_broken_a :
    { c5Params with periodUs := 0 }.broken = some .periodRange ∧
    { c5Params with restUs := 4294967276 }.broken = some .periodRange ∧
    { c5Params with restUs := 4294967275 }.broken = none := by decide

theorem test_broken_b_c :
    { c5Params with clkPerUs := 1 }.broken = some .clockPerMicrosecond ∧
    { c5Params with sclkHalf := 0 }.broken = some .serialClock ∧
    { c5Params with clkPerUs := 41 }.broken = some .serialClock ∧
    { c5Params with clkPerUs := 40 }.broken = none := by decide

theorem test_broken_d :
    { c5Params with sineBits := 1 }.broken = some .sineBits ∧
    { c5Params with sineBits := 17 }.broken = some .sineBits := by decide

theorem test_broken_e :
    { c5Params with rampLen := 0 }.broken = some .rampLength ∧
    { c5Params with rampLen := 2 }.broken = some .rampLength := by decide

theorem test_broken_f_g :
    { c5Params with restLen := 16777212 }.broken = some .regionLength ∧
    { c5Params with restLen := 2 }.broken = some .imageLength := by decide

/-- A record over the parameters of `C5` with rational frequencies. -/
def c5Record (src : IncrementSource) (center dev f0 a : ℚ) : ConfigRecord :=
  { c5Params, rationalWaveform center dev f0 a with increments := src }

theorem c5Record_fits (src : IncrementSource) (center dev f0 a : ℚ) :
    (c5Record src center dev f0 a).IncrementsFit ↔
      (src = .generated → rationalInRange 50000 2 2 center dev f0 a = true) :=
  ConfigRecord.incrementsFit_iff rfl

theorem c5Record_params (src : IncrementSource) (center dev f0 a : ℚ) :
    (c5Record src center dev f0 a).toParams.broken = none := test_c5_admitted

/-- 00_scope.md R10 (h), 95_test_vectors.md V1: a negative frequency, and one of the sample rate, are out of
range, and one just below it is in range; a rate of 0 is refused as well (assumption 23). -/
theorem test_rationalInRange :
    rationalInRange 50000 2 2 0 0 (-1) 0 = false ∧ rationalInRange 50000 2 2 50000 0 0 0 = false ∧
    rationalInRange 50000 2 2 49999 0 0 0 = true ∧ rationalInRange 0 2 2 0 0 0 0 = false := by
  decide +kernel

open Classical in
/-- A negative frequency is refused by name when the increments are generated. -/
theorem test_broken_h :
    (c5Record .generated 0 0 (-1) 0).broken = some .incrementRange := by
  have h : ¬(c5Record .generated 0 0 (-1) 0).IncrementsFit := by
    rw [c5Record_fits, test_rationalInRange.1]; simp
  simp only [ConfigRecord.broken, c5Record_params, if_neg h]

open Classical in
/-- Supplied increments are not checked. -/
theorem test_supplied_not_checked :
    (c5Record .supplied 0 0 (-1) 0).broken = none :=
  (ConfigRecord.broken_eq_none_iff _).2
    ⟨c5Record_params .., fun h => IncrementSource.noConfusion h⟩

/-- A record over the parameters of `C5` with the constant frequency `440 * 2 ^ (7 / 12)` Hz. -/
noncomputable def fifthRecord : ConfigRecord :=
  { c5Params, Waveform.mk (440 * 2 ^ (7 / 12 : ℝ)) 0 (440 * 2 ^ (7 / 12 : ℝ)) 0 with
    increments := .generated }

open Classical in
/-- An irrational frequency is an argument like any other (93_implementation_defined.md I3). -/
theorem test_irrational_frequency :
    fifthRecord.broken = none := by
  have hlo : (0 : ℝ) < 440 * 2 ^ (7 / 12 : ℝ) := by positivity
  have hhi : (440 : ℝ) * 2 ^ (7 / 12 : ℝ) ≤ 880 := by
    have h : (2 : ℝ) ^ (7 / 12 : ℝ) ≤ 2 ^ (1 : ℝ) :=
      Real.rpow_le_rpow_of_exponent_le (by norm_num) (by norm_num)
    rw [Real.rpow_one] at h; linarith
  have hin : ∀ f : Nat → ℝ, (∀ i, f i = 440 * 2 ^ (7 / 12 : ℝ)) → InRange f 50000 2 := by
    intro f hf
    rw [inRange_iff (by norm_num)]
    intro i _
    rw [hf]
    push_cast
    constructor
    · rw [lt_div_iff₀ (by norm_num)]; linarith
    · rw [div_lt_iff₀ (by norm_num)]; linarith
  refine (ConfigRecord.broken_eq_none_iff _).2 ⟨test_c5_admitted, fun _ => ⟨by decide, ?_, ?_⟩⟩
  · exact hin _ fun i => by simp [swoopHz, fifthRecord]
  · exact hin _ fun i => by simp [chirpHz, fifthRecord]

/-- The constant 1000 Hz of the default record is in range. -/
theorem defaultRecord_fits (restUs : Nat) (images : Images) :
    (defaultRecord (defaultParams restUs images)).IncrementsFit := by
  rw [ConfigRecord.incrementsFit_iff (center := 1000) (dev := 0) (f0 := 1000) (a := 0)
    (by simp [defaultRecord, rationalWaveform])]
  have h : roundsInRange (scaledHz 50000 1000) = true := by norm_num [roundsInRange, scaledHz]
  have h0 : scaledHz 50000 0 = 0 := by norm_num [scaledHz]
  intro _
  simp [rationalInRange, defaultRecord, defaultParams, swoopInRange, chirpInRange, h, h0]

/-- The machine booted from a default record is the one in its reset state. -/
theorem boot_defaultRecord {p : Params} (h : p.broken = none) (hf : (defaultRecord p).IncrementsFit)
    [Decidable (defaultRecord p).IncrementsFit] :
    State.boot (defaultRecord p) [] = .next (State.resetOf ⟨p, h⟩ []) := by
  obtain ⟨k, hk, -⟩ | ⟨-, c, hc, he⟩ := Config.build_cases (defaultRecord p)
  · rw [(ConfigRecord.broken_eq_none_iff (defaultRecord p)).2 ⟨h, hf⟩] at hk; cases hk
  · obtain ⟨q, hq⟩ := c
    obtain rfl : q = p := hc
    simp only [State.boot, he]

open Classical in
/-- `State.reset` is the machine booted from the default record of the segmented policy. -/
theorem test_boot_default :
    State.boot (defaultRecord segmentedParams) [] = .next State.reset :=
  boot_defaultRecord segmentedParams_admitted (defaultRecord_fits _ _)

/-- The peak of an odd sweep of 3 samples is `sqrt 3 / 2 = 0.8660254…`, of an even one 1. -/
theorem test_peakBelow :
    peakBelow 3 (866025 / 1000000) = false ∧ peakBelow 3 (866026 / 1000000) = true ∧
    peakBelow 4 1 = false ∧ peakBelow 4 (1000001 / 1000000) = true := by decide +kernel

/-! ### Tables and datapath -/

/-- 40_tables.md R119 and 95_test_vectors.md V1; the last one is 00_scope.md R10 (h). -/
theorem test_genIncrement :
    genIncrement 1000 50000 = .ok 0x051EB852 ∧ genIncrement 440 50000 = .ok 0x0240B780 ∧
    genIncrement 25000 50000 = .ok 0x80000000 ∧ genIncrement 1 50000 = .ok 0x00014F8B ∧
    genIncrement 0 50000 = .ok 0 ∧ genIncrement (1 / 2) 50000 = .ok 0x0000A7C6 ∧
    genIncrement 1 0 = .error .incrementRange ∧ genIncrement (-1) 50000 = .error .incrementRange := by
  decide +kernel

/-- V1: generated envelopes. -/
theorem test_envelope_codes :
    envTable 4 1 = [0, 32768, 32768, 0] ∧ envTable 4 2 = [0, 16384, 16384, 0] ∧
    envTable 6 2 = [0, 16384, 32768, 32768, 16384, 0] ∧ envTable 2 1 = [0, 0] := by decide

/-- S5: codes for 5200 samples with a ramp of 1000. -/
theorem test_envelope_default :
    [0, 1, 2, 499, 500, 501, 998, 999, 1000, 4199, 4200, 4201, 5198, 5199].map (envCode 5200 1000) =
      [0, 33, 66, 16351, 16384, 16417, 32702, 32735, 32768, 32768, 32735, 32702, 33, 0] := by decide

/-- S2: spot values of the sine table, and its sum (40_tables.md R114). -/
theorem test_sine_spots :
    [0, 1, 5, 16, 32, 48, 64, 80, 96, 100, 128, 160, 192, 224, 255].map
        (fun i => (sineTable256[i]?).map rawSample) =
      [0, 50, 251, 783, 1447, 1891, 2047, 1891, 1447, 1299, 0, -1447, -2047, -1447, -50].map some ∧
    (sineTable256.map rawSample).sum = 0 := by decide +kernel

/-- 30_encoding.md R103: stored patterns. -/
theorem test_sine_patterns : sineTable256[255]? = some 0xFCE ∧ sineTable256[192]? = some 0x801 := by
  decide +kernel

/-- V2. -/
theorem test_phaseAdd :
    phaseAdd 0xFFFFFFF0 0x20 = 0x10 ∧ phaseAdd 0x80000000 0x80000000 = 0 ∧
    phaseAdd 0 85899346 = 0x051EB852 := by decide

/-- S3, V2. -/
theorem test_sineIndex :
    sineIndex 24 0x051EB852 = 5 ∧ sineIndex 24 0x00FFFFFF = 0 ∧ sineIndex 24 0xFFFFFFFF = 255 ∧
    sineIndex 30 0xC0000000 = 3 ∧ sineIndex 16 0x12345678 = 0x1234 := by decide

/-- V3, with the ties of 41_phase_sine.md R144 and the truncation of R143. -/
theorem test_mag :
    mag 1000 0x4000 = 1524 ∧ mag 2047 0x8000 = 4095 ∧ mag (-2047) 0x8000 = 1 ∧ mag (-2048) 0x8000 = 0 ∧
    mag 2047 0 = 0 ∧ mag 2047 0xFFFF = 4094 ∧ mag (-1) 0x4000 = 1024 ∧ mag (-2047) 0x4000 = 1 ∧
    mag (-2045) 0x4000 = 2 ∧ mag 2047 0x7FDF = 4091 ∧ mag 50 0x21 = 2 ∧ mag 251 0x8000 = 2299 := by
  decide

/-- V4. -/
theorem test_dacWord :
    dacWord 0x3 0 = 0x3000 ∧ dacWord 0x3 1524 = 0x35F4 ∧ dacWord 0x3 4095 = 0x3FFF ∧
    dacWord 0x3 4096 = 0x3000 ∧ dacWord 0x3 0x1FFF = 0x3FFF := by decide

/-! ### One tick -/

/-- P1, edge 82: SWOOP entry 1 gives the word 0x36D4. -/
theorem test_segEmit_swoop :
    afterEdge (fun t => (t.phase, t.lastWord, t.idx, t.alarm, t.seg)) (tickState t6 0x10000000 .swoop 1 40)
      = some (0x20000000, 0x36D4, 2, 60, .swoop) := by decide

/-- P1, edge 442, but late by one with a saturated count (V5): CHIRP entry 3 gives 0x3259. -/
theorem test_segEmit_late_chirp :
    afterEdge (fun t => (t.phase, t.lastWord, t.alarm, t.missed, t.busy))
        { tickState t6 0xC0000000 .chirp 3 220 with time := 221, missed := 0xFFFFFFFF }
      = some (0xE0000000, 0x3259, 241, 0xFFFFFFFF, true) := by decide

/-- V5 under the default configuration: the phase and the last word stay. -/
theorem test_segFlipS2C :
    afterEdge (fun t => (t.seg, t.idx, t.phase, t.lastWord, t.busy))
        { tickState segmentedConfig 0x12345678 .swoop 5200 1000 with lastWord := 0x3000, valid := true }
      = some (.chirp, 0, 0x12345678, 0x3000, false) := by decide

/-- V5: the rest of 250000 microseconds. -/
theorem test_segFlipC2SRest :
    afterEdge (fun t => (t.seg, t.idx, t.probePulse, t.alarm, t.valid))
        (tickState segmentedConfig 0 .chirp 5200 1000)
      = some (.swoop, 0, true, 251020, false) := by decide

/-- P3, edge 166: the buffer entry 300. -/
theorem test_catEmit :
    afterEdge (fun t => (t.lastWord, t.idx, t.alarm, t.phase, t.busy)) (tickState c5 0 .swoop 3 82)
      = some (0x312C, 4, 102, 0, true) := by decide

/-- P3, edge 246: the wrap with its rest. -/
theorem test_catWrapRest :
    afterEdge (fun t => (t.idx, t.alarm, t.probePulse, t.busy, t.seg)) (tickState c5 0 .swoop 5 122)
      = some (0, 152, true, false, .swoop) := by decide

/-- V5, deadline wrap: from `TIME = ALARM = 0xFFFFFFF0`. -/
theorem test_deadline_wrap :
    afterEdge (fun t => (t.alarm, t.time, t.missed)) (tickState t6 0 .swoop 0 0xFFFFFFF0)
      = some (0x00000004, 0xFFFFFFF1, 0) := by decide

/-! ### The host port -/

/-- The port value in a cycle that reads a word. -/
def readIn (s : State) (a : BitVec 4) : Option Word :=
  afterEdge State.hostRdata { s with inputs := [rdCycle a] }

/-- The state of P1 in cycle 700, one cycle before its reads. -/
def p1State : State :=
  { State.resetOf t6 [] with
    phase := 0x30000000, idx := 1, time := 349, presc := 1, alarm := 350, armed := true
    enable := true, valid := true, lastWord := 0x3000 }

/-- The register reads, on one state (P1; `STATUS` as in its cycle 701). -/
theorem test_register_reads :
    readIn p1State 0x0 = some 1 ∧ readIn p1State 0x1 = some 0x89 ∧
    readIn p1State 0x2 = some 0x30000000 ∧ readIn p1State 0x3 = some 1 ∧
    readIn p1State 0x4 = some 349 ∧ readIn p1State 0x5 = some 350 ∧ readIn p1State 0x6 = some 0 ∧
    readIn p1State 0x7 = some 0x13000 := by decide

/-- V9: `STATUS` in a frame, after a transition tick, after disabling in a frame (P2), and in P3. -/
theorem test_status_examples :
    statusWord { p1State with busy := true } = 0xCB ∧
    statusWord { p1State with seg := .chirp, probePulse := true } = 0xD9 ∧
    statusWord { p1State with busy := true, enable := false, armed := false } = 0xC2 ∧
    statusWord { p1State with cfg := c5, armed := false, pending := true } = 0xA5 := by decide

/-- V9: the configuration words of `DEF`, and the reserved words. -/
theorem test_config_reads :
    [0x8, 0x9, 0xA, 0xB, 0xC, 0xD, 0xE, 0xF].map (readIn State.reset) =
      [0x00030800, 0x1450, 0x1450, 0x14, 0x0003D090, 0, 0, 0].map some := by decide

/-- P3, cycles 1 to 4, and the rest of the default concatenated configuration (S9). -/
theorem test_config_reads_concatenated :
    [0x8, 0x9, 0xA, 0x1].map (readIn (State.resetOf c5 [])) = [0x00030801, 5, 0, 0x20].map some ∧
    readIn (State.resetOf concatenatedConfig []) 0xC = some 0x0007A120 := by decide

/-- A cycle without a read has `host_rdata = 0` (45_host.md R250). -/
theorem test_no_read : afterEdge State.hostRdata { p1State with hostRdata := 9 } = some 0 := by decide

/-- V7: `wr CTRL, 0xFFFFFFFF` at time 7. -/
theorem test_wrCtrl_enables :
    afterEdge (fun t => (t.enable, t.armed, t.pending, t.alarm))
        { State.resetOf t6 [wrCycle 0x0 0xFFFFFFFF] with time := 7 }
      = some (true, true, false, 27) := by decide

/-- V7: disabling at the start edge starts no tick. -/
theorem test_wrCtrl_disables :
    afterEdge (fun t => (t.enable, t.armed, t.pending, t.idx, t.valid))
        { tickState t6 0 .swoop 0 20 with inputs := [wrCycle 0x0 0] }
      = some (false, false, false, 0, false) := by decide

/-- P2, edge 131, and a write to each other row: every register that a write could reach stays. -/
theorem test_ignored_writes :
    [0x1, 0x2, 0x3, 0x4, 0x7, 0x8, 0xF].map (fun a =>
      afterEdge (fun t => (t.phase, t.idx, t.alarm, t.enable, t.lastWord))
        { p1State with inputs := [wrCycle a 0x12345678] }) =
      List.replicate 7 (some (0x30000000, 1, 350, true, 0x3000)) := by decide

/-- `rdwr CTRL, 1` reads the old value and enables (P2, cycle 197). -/
theorem test_rdwr :
    afterEdge (fun t => (t.hostRdata, t.enable, t.alarm))
        { State.resetOf t6 [rdwrCycle 0x0 1] with time := 98, presc := 1 }
      = some (0, true, 118) := by decide

/-- A read in a cycle with `rst = 1` returns the value before the reset (45_host.md R269). -/
theorem test_reset_edge_reads :
    afterEdge (fun t => (t.hostRdata, t.phase, t.time, t.enable))
        { p1State with inputs := [⟨true, false, true, 0x2, 0⟩] }
      = some (0x30000000, 0, 0, false) := by decide

/-! ### The serial pins (V6) -/

/-- A frame of 0x35F4 at a count. -/
def frameAt (c : Config) (w : DacWord) (x : Nat) : State :=
  { State.resetOf c [] with
    busy := true, valid := true, lastWord := w, xcnt := BitVec.ofNat 24 x
    xcntHigh := x / 2 ^ 24 }

/-- The first eight cycles of the frame, and the hold. -/
theorem test_pins_first :
    [0, 1, 2, 3, 4, 5, 6, 7, 32].map (fun x => pins (frameAt t6 0x35F4 x)) =
      [⟨false, false, false, true⟩, ⟨false, true, false, true⟩, ⟨false, false, false, true⟩,
       ⟨false, true, false, true⟩, ⟨false, false, true, true⟩, ⟨false, true, true, true⟩,
       ⟨false, false, true, true⟩, ⟨false, true, true, true⟩, ⟨false, false, false, true⟩] := by decide

/-- `SCLK_HALF = 2`, word 0xA001: the data pin. -/
theorem test_pins_slow :
    [0, 3, 4, 8, 11, 12, 59, 60, 63, 64, 65].map (fun x => dacMosi (frameAt t6s2 0xA001 x)) =
      [true, true, false, true, true, false, false, true, true, false, false] := by decide

/-- The end of a frame (43_output.md R194), and the reset levels (R200). -/
theorem test_frame_end :
    afterEdge (fun t => (t.busy, t.xcnt)) (frameAt t6 0x35F4 32) = some (false, 0) ∧
    afterEdge (fun t => (t.busy, t.xcnt)) (frameAt t6 0x35F4 31) = some (true, 32) ∧
    afterEdge pins { frameAt t6 0x35F4 3 with inputs := [resetCycle] }
      = some ⟨true, false, false, false⟩ := by decide

/-- P2: the frame started at edge 122 ends at edge 155, where it is observed. -/
theorem test_observed_frame :
    observe 1 155 (frameAt t6 0x3F63 32) = [.frame 122 0x3F63] ∧
    observe 1 154 (frameAt t6 0x3F63 31) = [] := by decide

/-- Assumption 13: a reset edge at the end of the last cycle finds the frame complete; one before does not. -/
theorem test_observed_at_reset :
    observe 1 155 { frameAt t6 0x3F63 32 with inputs := [resetCycle] } = [.frame 122 0x3F63] ∧
    observe 1 154 { frameAt t6 0x3F63 31 with inputs := [resetCycle] } = [] := by decide

theorem test_slow_admitted : (t6Params 20 2 600000).broken = none := by decide +kernel

/-- Assumption 5: a frame of 19800000 cycles counts past 24 bits, keeps its half-periods, and ends. -/
theorem test_xcnt_beyond_24_bits :
    let c : Config := ⟨t6Params 20 2 600000, test_slow_admitted⟩
    afterEdge (fun t => (frameCycle t, t.xcnt, t.busy)) (frameAt c 0 16777214)
      = some (16777215, 16777215, true) ∧
    afterEdge (fun t => (frameCycle t, t.xcnt, t.busy)) (frameAt c 0 16777215)
      = some (16777216, 0, true) ∧
    (dacSclk (frameAt c 0 18599999), dacSclk (frameAt c 0 18600000)) = (false, true) ∧
    afterEdge (fun t => (frameCycle t, t.busy)) (frameAt c 0 19799999) = some (0, false) := by decide

/-! ### A host script -/

/-- Whether a script ran to its end with every `expect` met. -/
def succeeds (cs : List Cmd) (c : Config) : Bool :=
  match runScript 10 cs ⟨State.resetOf c [], none⟩ with
  | .running _ => true
  | .failed _ => false
  | .unfinished _ => false
  | .stopped => false

/-- A short script (30_encoding.md R100, R101): `TIME` reads `(k - 1) div 2` in cycle `k` (45_host.md R255),
and an `expect` of another value fails. -/
theorem test_script :
    succeeds [.reset, .start, .expect 0x0 1, .expect 0x5 20, .runToEdge 6, .expect 0x4 3] t6 = true ∧
    succeeds [.reset, .nop, .poll 0x4 0xFFFFFFFF 2, .expect 0x4 2] t6 = true ∧
    succeeds [.reset, .expect 0x8 0] t6 = false := by decide +kernel

/-! ### Witnesses: states and operands that meet the hypotheses of each statement -/

/-- A step that answers, from a register of its result. -/
theorem step_of_afterEdge {α : Type} {f : State → α} {s : State} {v : α}
    (h : afterEdge f s = some v) : ∃ t, step s = .next t ∧ f t = v := by
  unfold afterEdge at h
  split at h
  · exact ⟨_, ‹_›, by simpa using h⟩
  · cases h
  · cases h

/-- A script that is silent resets nothing and writes nothing. -/
theorem quiet_nil {s : State} (h : s.inputs = []) : HostQuiet s ∧ NoReset s := by
  constructor <;> intro i hi <;> rw [h] at hi <;> cases hi

/-- An armed state that is not yet at its deadline, under `T6`. -/
def armedState : State :=
  { State.resetOf t6 [] with time := 5, alarm := 20, armed := true, enable := true }

/-- A fire edge, under `T6`. -/
def fireState : State := { armedState with time := 20 }

/-- A state in the middle of a frame with the next deadline armed, under `T6`. -/
def frameState : State :=
  { armedState with
    phase := 0x10000000, idx := 1, busy := true, valid := true, xcnt := 7, lastWord := 0x3000
    time := 23, alarm := 40 }

/-- An on-time tick of SWOOP entry 0 and one of the end of SWOOP, under `T6`. -/
def emitState : State := tickState t6 0 .swoop 0 20
def flipState : State := tickState t6 0 .swoop 6 140

/-- A late tick of the last entry of the region, under `T6S2`. -/
def lateState : State := { tickState t6s2 0x50000000 .swoop 5 188 with alarm := 174, missed := 4 }

theorem witness_inv_armed : Inv armedState := by constructor <;> decide
theorem witness_inv_fire : Inv fireState := by constructor <;> decide
theorem witness_inv_frame : Inv frameState := by constructor <;> decide
theorem witness_inv_emit : Inv emitState := by constructor <;> decide
theorem witness_inv_flip : Inv flipState := by constructor <;> decide
theorem witness_inv_late : Inv lateState := by constructor <;> decide

/-- `HostCommandsDecodeByMatchAndMask`: each clause, at both ends of its range where it is a range. -/
theorem witness_hostCommandClauses :
    ((0x00 : BitVec 5) &&& 0x10 = 0x00 ∧ (0x0F : BitVec 5) &&& 0x10 = 0x00) ∧
    ([0x10, 0x11, 0x12, 0x13, 0x14, 0x15, 0x16, 0x17, 0x18, 0x19, 0x1A, 0x1B, 0x1C, 0x1D].all
      fun b : BitVec 5 => b &&& 0x1F == b) = true ∧
    ((0x1E : BitVec 5) &&& 0x1E = 0x1E ∧ (0x1F : BitVec 5) &&& 0x1E = 0x1E) ∧
    ((0x12 : BitVec 5) &&& 0x1E = 0x12 ∧ (0x13 : BitVec 5) &&& 0x1E = 0x12) ∧
    ((0x14 : BitVec 5) &&& 0x1C = 0x14 ∧ (0x17 : BitVec 5) &&& 0x1C = 0x14) ∧
    ((0x18 : BitVec 5) &&& 0x18 = 0x18 ∧ (0x1F : BitVec 5) &&& 0x18 = 0x18) := by decide

/-- `DecodeUndoesEncode`: the rows with a range, at its ends. -/
theorem witness_wellFormed :
    (Instr.rdRsvdEF 0xE).wf = true ∧ (Instr.rdRsvdEF 0xF).wf = true ∧
    (Instr.wrIgn23 0x2 1).wf = true ∧ (Instr.wrIgn23 0x3 1).wf = true ∧
    (Instr.wrIgn47 0x4 1).wf = true ∧ (Instr.wrIgn47 0x7 1).wf = true ∧
    (Instr.wrIgn8F 0x8 1).wf = true ∧ (Instr.wrIgn8F 0xF 1).wf = true := by decide

/-- `OneCycleCarriesAReadAndAWrite`. -/
theorem witness_cycle :
    cycleWf .rdCtrl (.wrCtrl 1) = true ∧ cycleWf .rdTime (.wrIgn47 0x4 1) = true ∧
    cycleWf (.rdNone 0xF) (.wrIgn8F 0xF 1) = true := by decide

open Classical in
/-- `BrokenParametersAreRefusedByName`: each clause. -/
theorem witness_broken :
    (c5Record .generated 0 0 (-1) 0).broken = some .incrementRange ∧ fifthRecord.broken = none :=
  ⟨test_broken_h, test_irrational_frequency⟩

open Classical in
/-- `BuiltConfigurationsMeetTheConstraints`: a configuration of each policy, and a record that is built. -/
theorem witness_policies :
    t6.policy = .segmented ∧ c5.policy = .concatenated ∧ fifthRecord.increments = .generated ∧
    ∃ c, Config.build fifthRecord = .ok c := by
  refine ⟨by decide, by decide, rfl, ?_⟩
  obtain ⟨k, hk, -⟩ | ⟨-, c, -, he⟩ := Config.build_cases fifthRecord
  · rw [test_irrational_frequency] at hk; cases hk
  · exact ⟨c, he⟩

open Classical in
/-- `OutOfRangeIncrementsAreRefused`: a record of each side. -/
theorem witness_incrementRange :
    ((c5Record .generated 0 0 (-1) 0).toParams.broken = none ∧
      (c5Record .generated 0 0 (-1) 0).broken = some .incrementRange) ∧
    (fifthRecord.toParams.broken = none ∧ fifthRecord.broken = none) :=
  ⟨⟨c5Record_params .., test_broken_h⟩, test_c5_admitted, test_irrational_frequency⟩

/-- `MagnitudeRoundsTheScaledSample`, `MagnitudeWithinOneOfTheRealFormula`: the ends of the range. -/
theorem witness_samples :
    ((-2048 : Int) ≤ -2048 ∧ (-2048 : Int) ≤ 2047) ∧ ((-2048 : Int) ≤ 2047 ∧ (2047 : Int) ≤ 2047) ∧
    ((-2047 : Int) ≤ -2047 ∧ (1 : Nat) ≤ 1 ∧ 2 * 1 ≤ 2 ∧ 1 < 2) ∧
    ((envCode 6 2 1).toNat : ℚ) = envShape 6 2 1 * 2 ^ 15 := by
  refine ⟨by decide, by decide, by decide, ?_⟩
  have h : (envCode 6 2 1).toNat = 16384 := by decide
  rw [h]; norm_num [envShape]

/-- `EnvelopeCodeRoundsTheShape`, `EnvelopeRisesHoldsAndFalls`: the shortest region, and each clause. -/
theorem witness_envelope :
    ((1 : Nat) ≤ 1 ∧ 2 * 1 ≤ 2 ∧ 1 < 2) ∧
    ((1 : Nat) ≤ 2 ∧ 2 * 2 ≤ 6 ∧ (2 ≤ 2 ∧ 2 < 6 - 2) ∧ (2 ≤ 3 ∧ 3 < 6 - 2)) ∧
    (2 ≤ 32768 ∧ 0 + 1 < 2 ∧ 6 - 2 ≤ 4 ∧ 4 + 1 < 6 ∧ envCode 6 2 2 = 0x8000) ∧ (1 ≤ 32768 ∧ 2 * 32768 ≤ 65536) := by decide

/-- `RenderedBufferMatchesTheSegmentedWaveform`. -/
theorem witness_rendered :
    t6.images = .segmented t6Tables ∧ 0 < t6.restLen ∧ 5 < t6.swoopLen := ⟨rfl, by decide, by decide⟩

/-- `PhaseIsTheSumOfTheIncrements`: a whole segment. -/
theorem witness_phaseSum :
    emitState.cfg.images = .segmented t6Tables ∧
    emitState.idx.toNat + 6 ≤ emitState.cfg.segmentLen emitState.seg := ⟨rfl, by decide⟩

/-- `SegEmitSendsOneSample`, at the last entry. -/
theorem witness_segEmit :
    (tickState t6 0 .chirp 5 0).cfg.images = .segmented t6Tables ∧
    (tickState t6 0 .chirp 5 0).idx.toNat < (tickState t6 0 .chirp 5 0).cfg.segmentLen .chirp :=
  ⟨rfl, by decide⟩

/-- `CatEmitSendsOneEntry`, at the last entry. -/
theorem witness_catEmit :
    (tickState c5 0 .swoop 4 0).cfg.images = .concatenated [100, 200, 0, 300, 4095] ∧
    (tickState c5 0 .swoop 4 0).idx.toNat < (tickState c5 0 .swoop 4 0).cfg.songLen :=
  ⟨rfl, by decide⟩

/-- `EmittingOutsideTheTablesFaults`: each disjunct. -/
theorem witness_outside :
    (tickState c5 0 .swoop 0 0).cfg.policy = .concatenated ∧
    (tickState t6 0 .swoop 6 0).cfg.segmentLen .swoop ≤ (tickState t6 0 .swoop 6 0).idx.toNat ∧
    emitState.cfg.policy = .segmented ∧
    (tickState c5 0 .swoop 5 0).cfg.songLen ≤ (tickState c5 0 .swoop 5 0).idx.toNat := by decide

/-- `LatenessChangesOnlyTheCount`: an operation that answers, on time and late. -/
theorem witness_lateness :
    (∃ t, exec (decode (.ticksel 0b001)) emitState = .next t) ∧ emitState.time = emitState.alarm ∧
    (∃ t, exec (decode (.ticksel 0b101)) lateState = .next t) ∧ lateState.time ≠ lateState.alarm :=
  ⟨⟨_, rfl⟩, by decide, ⟨_, rfl⟩, by decide⟩

/-- `CtrlWriteEnablesOrDisables`: each clause; the last one both ways. -/
theorem witness_ctrlWrite :
    ((1 : Word).getLsbD 0 = true ∧ (State.resetOf t6 []).enable = false) ∧
    ((0 : Word).getLsbD 0 = false ∧ armedState.enable = true) ∧
    (1 : Word).getLsbD 0 = armedState.enable ∧
    (0 : Word).getLsbD 0 = (State.resetOf t6 []).enable := by decide

/-- `StepRunsTheDecodedOperations`, `ResetEdgeLoadsTheResetValues`: a reset edge, a tick, an edge without
one. -/
theorem witness_edges :
    { frameState with inputs := [resetCycle] }.input.rst = true ∧
    (emitState.input.rst = false ∧ startsTick emitState = true) ∧
    (frameState.input.rst = false ∧ startsTick frameState = false) := by decide

/-- `EveryStepKeepsTheInvariants`, `StepKeepsThePortValue`, `EveryStepKeepsTheFireAligned`. -/
theorem witness_step :
    Inv emitState ∧ FireAligned fireState ∧ (∃ t, step emitState = .next t) ∧
    (∃ t, step fireState = .next t) := by
  refine ⟨witness_inv_emit, fun _ _ => rfl, ?_, ?_⟩
  · obtain ⟨t, h, -⟩ := step_of_afterEdge (show afterEdge State.idx emitState = some 1 by decide)
    exact ⟨t, h⟩
  · obtain ⟨t, h, -⟩ := step_of_afterEdge (show afterEdge State.pending fireState = some true by decide)
    exact ⟨t, h⟩

/-- `NoTickIsLateWhereTheFrameFits`: a tick, and a frame in progress. -/
theorem witness_onTime :
    (FrameFits t6 ∧ Inv emitState ∧ FireAligned emitState ∧ OnTime emitState ∧
      ∃ t, step emitState = .next t) ∧
    (Inv frameState ∧ FireAligned frameState ∧ OnTime frameState ∧ ∃ t, step frameState = .next t) := by
  refine ⟨⟨by unfold FrameFits; decide, witness_inv_emit, by unfold FireAligned; decide,
    by constructor <;> decide, ?_⟩, witness_inv_frame, by unfold FireAligned; decide,
    by constructor <;> decide, ?_⟩
  · obtain ⟨t, h, -⟩ := step_of_afterEdge (show afterEdge State.idx emitState = some 1 by decide)
    exact ⟨t, h⟩
  · obtain ⟨t, h, -⟩ := step_of_afterEdge (show afterEdge State.xcnt frameState = some 8 by decide)
    exact ⟨t, h⟩

/-- `ReadsHaveNoSideEffect`. -/
theorem witness_read :
    { frameState with inputs := [rdCycle 0x4] }.inputs = rdCycle 0x4 :: [] ∧
    ∃ t, step { frameState with inputs := [rdCycle 0x4] } = .next t := by
  obtain ⟨t, h, -⟩ := step_of_afterEdge
    (show afterEdge State.hostRdata { frameState with inputs := [rdCycle 0x4] } = some 23 by decide)
  exact ⟨rfl, t, h⟩

/-- `IneffectiveWritesAreAsNone`: each disjunct. -/
theorem witness_ineffective :
    (wrCycle 0xF 0).addr ≠ 0 ∧ (wrCycle 0x0 1).wdata.getLsbD 0 = armedState.enable ∧
    { armedState with inputs := [wrCycle 0x0 1] }.inputs = wrCycle 0x0 1 :: [] :=
  ⟨by decide, by decide, rfl⟩

/-- `OnlyTheNamedWritersWrite`, `MissedCountsLateTicksAndSaturates`, `ProbeMarksEveryTick`: an edge with
`rst = 0` at which the registers of an emitting tick move. -/
theorem witness_writers_emit :
    lateState.input.rst = false ∧ startsTick lateState = true ∧ lateState.idx.toNat < lateState.len ∧
    ∃ t, step lateState = .next t ∧ (t.phase, t.idx, t.time, t.alarm, t.missed) =
      (0x60000000, 6, 189, 208, 5) := by
  refine ⟨by decide, by decide, by decide, ?_⟩
  exact step_of_afterEdge (f := fun t => (t.phase, t.idx, t.time, t.alarm, t.missed)) (by decide)

/-- The same statements: an edge at which `SEG` moves and the probe pulses. -/
theorem witness_writers_flip :
    flipState.input.rst = false ∧ startsTick flipState = true ∧ flipState.len ≤ flipState.idx.toNat ∧
    ∃ t, step flipState = .next t ∧ (t.seg, t.armed, t.pending, t.probePulse) =
      (.chirp, true, false, true) := by
  refine ⟨by decide, by decide, by decide, ?_⟩
  exact step_of_afterEdge (f := fun t => (t.seg, t.armed, t.pending, t.probePulse)) (by decide)

/-- The same statements: an edge at which `ENABLE` moves. -/
theorem witness_writers_enable :
    ∃ t, step (State.resetOf t6 [wrCycle 0x0 1]) = .next t ∧ (t.enable, t.armed, t.alarm) =
      (true, true, 20) :=
  step_of_afterEdge (f := fun t => (t.enable, t.armed, t.alarm)) (by decide)

/-- `DisablingWriteStopsAtOnce`, with a frame in progress that goes on. -/
theorem witness_disable :
    { frameState with inputs := [wrCycle 0x0 0] }.input = wrCycle 0x0 0 ∧
    (wrCycle 0x0 0).rst = false ∧ (wrCycle 0x0 0).we = true ∧ (wrCycle 0x0 0).addr = 0 ∧
    (wrCycle 0x0 0).wdata.getLsbD 0 = false ∧ frameState.enable = true ∧ frameState.busy = true ∧
    frameCycle frameState + 1 < frameState.cfg.xferCycles ∧
    (let s := { frameState with xcnt := 32, inputs := [wrCycle 0x0 0] }
     s.input = wrCycle 0x0 0 ∧ s.enable = true ∧ s.busy = true ∧
      frameCycle s + 1 = s.cfg.xferCycles) := by
  decide

/-- `EnablingWriteArmsOnePeriodAhead`. -/
theorem witness_enable :
    (State.resetOf t6 [wrCycle 0x0 1]).input = wrCycle 0x0 1 ∧ (wrCycle 0x0 1).rst = false ∧
    (wrCycle 0x0 1).we = true ∧ (wrCycle 0x0 1).addr = 0 ∧ (wrCycle 0x0 1).wdata.getLsbD 0 = true ∧
    (State.resetOf t6 [wrCycle 0x0 1]).enable = false := by decide

/-- `FireDisarmsAndBecomesPending`. -/
theorem witness_fire :
    Inv fireState ∧ fireState.input.rst = false ∧ fireState.armed = true ∧
    fireState.time = fireState.alarm ∧ fireState.input.we = false :=
  ⟨witness_inv_fire, by decide, by decide, by decide, by decide⟩

/-- `EventsOfOneEdgeExcludeEachOther`: each clause has a state in which its event happens. -/
theorem witness_events :
    (Inv fireState ∧ fires fireState = true) ∧ (Inv emitState ∧ startsTick emitState = true) ∧
    enabling (State.resetOf t6 [wrCycle 0x0 1]) = true ∧
    disabling { frameState with inputs := [wrCycle 0x0 0] } = true :=
  ⟨⟨witness_inv_fire, by decide⟩, ⟨witness_inv_emit, by decide⟩, by decide, by decide⟩

/-- `EveryTickMovesTheIndex`: an emitting tick and a transition tick. -/
theorem witness_ticks :
    (Inv lateState ∧ startsTick lateState = true ∧ ∃ t, step lateState = .next t ∧ t.idx = 6) ∧
    (Inv flipState ∧ startsTick flipState = true ∧ ∃ t, step flipState = .next t ∧ t.idx = 0) :=
  ⟨⟨witness_inv_late, by decide, step_of_afterEdge (f := State.idx) (by decide)⟩,
    ⟨witness_inv_flip, by decide, step_of_afterEdge (f := State.idx) (by decide)⟩⟩

/-- `SerialClockRisesOnceForEachBit`: the first cycle, the cycles before the first and the last rising edge
and before the end of the hold, and the last rise of a frame of more than 2^24 cycles. -/
theorem witness_serial :
    let c : Config := ⟨t6Params 20 2 600000, test_slow_admitted⟩
    ([0, 1, 61, 64].all fun n =>
      (frameAt t6s2 0xA001 n).busy && !(frameAt t6s2 0xA001 n).input.rst &&
        decide (frameCycle (frameAt t6s2 0xA001 n) + 1 < t6s2.xferCycles)) = true ∧
    frameCycle (frameAt t6s2 0xA001 1) + 1 = t6s2.sclkHalf * (2 * 0 + 1) ∧
    frameCycle (frameAt t6s2 0xA001 61) + 1 = t6s2.sclkHalf * (2 * 15 + 1) ∧
    32 * t6s2.sclkHalf ≤ frameCycle (frameAt t6s2 0xA001 64) + 1 ∧
    frameCycle (frameAt c 0xA001 18599999) + 1 = c.sclkHalf * (2 * 15 + 1) := by decide

/-- `FrameLastsExactlyXferCycles`. -/
theorem witness_frame :
    NoReset emitState ∧ startsTick emitState = true ∧ emitState.idx.toNat < emitState.len ∧
    32 < emitState.cfg.xferCycles :=
  ⟨(quiet_nil rfl).2, by decide, by decide, by decide⟩

/-- `TimeBaseCountsTheEdges`, `DisabledBlockStaysIdle`. -/
theorem witness_quiet :
    (NoReset frameState ∧ frameState.presc < frameState.cfg.clkPerUs) ∧
    (Inv (State.resetOf t6 []) ∧ (State.resetOf t6 []).enable = false ∧
      HostQuiet (State.resetOf t6 [])) :=
  ⟨⟨(quiet_nil rfl).2, by decide⟩, by constructor <;> decide, by decide, (quiet_nil rfl).1⟩

/-- `DeadlineLiesTheDelayAhead`: the ends of the range. -/
theorem witness_delay : (1 ≤ 1 ∧ 1 ≤ 2 ^ 32 - 1) ∧ (1 ≤ 2 ^ 32 - 1 ∧ 2 ^ 32 - 1 ≤ 2 ^ 32 - 1) := by decide

/-- `FirstTickComesOnePeriodAfterEnabling`: from reset (V7), and after a disabling write in a frame. -/
theorem witness_firstTick :
    (Inv (State.resetOf t6 [wrCycle 0x0 1]) ∧ (wrCycle 0x0 1).rst = false ∧
      enabling (State.resetOf t6 [wrCycle 0x0 1]) = true ∧
      40 + (State.resetOf t6 [wrCycle 0x0 1]).presc = t6.periodUs * t6.clkPerUs) ∧
    (let s := { frameState with enable := false, armed := false, inputs := [wrCycle 0x0 1] }
     Inv s ∧ enabling s = true ∧ s.busy = true ∧ 40 + s.presc = t6.periodUs * t6.clkPerUs ∧
      s.cfg.xferCycles ≤ frameCycle s + 40 + 1) :=
  ⟨⟨by constructor <;> decide, by decide, by decide, by decide⟩,
    by constructor <;> decide, by decide, by decide, by decide, by decide⟩

/-- `OnTimeTicksAreExactlyTheDelayApart`: after an emitting tick, and after the rest transition. -/
theorem witness_spacing :
    (Inv emitState ∧ HostQuiet emitState ∧ startsTick emitState = true ∧
      emitState.time = emitState.alarm ∧ emitState.presc = 1 ∧
      40 = r280Delay emitState * emitState.cfg.clkPerUs ∧
      emitState.cfg.xferCycles < 40) ∧
    (let s := tickState t6 0 .chirp 6 280
     Inv s ∧ HostQuiet s ∧ startsTick s = true ∧ s.presc = 1 ∧ ¬s.idx.toNat < s.len ∧
      100 = r280Delay s * s.cfg.clkPerUs) :=
  ⟨⟨witness_inv_emit, (quiet_nil rfl).1, by decide, by decide, by decide, by decide,
      by decide⟩,
    by constructor <;> decide, (quiet_nil rfl).1, by decide, by decide, by decide, by decide⟩

/-- `OverrunningFramesSpaceTheTicks`: `F2`, and `T6S2` where the lateness clause applies. -/
theorem witness_overrun :
    (let s := tickState f2 0 .swoop 0 2
     Inv s ∧ HostQuiet s ∧ startsTick s = true ∧ s.idx.toNat < s.len ∧
      s.cfg.periodUs * s.cfg.clkPerUs ≤ s.cfg.xferCycles) ∧
    (Inv lateState ∧ HostQuiet lateState ∧ startsTick lateState = true ∧
      lateState.idx.toNat < lateState.len ∧
      (lateState.cfg.periodUs + 1) * lateState.cfg.clkPerUs ≤ lateState.cfg.xferCycles) :=
  ⟨⟨by constructor <;> decide, (quiet_nil rfl).1, by decide, by decide, by decide⟩,
    witness_inv_late, (quiet_nil rfl).1, by decide, by decide, by decide⟩

/-- `SegmentedCycleRepeats`. -/
theorem witness_segmentedCycle :
    emitState.cfg.images = .segmented t6Tables ∧ FrameFits emitState.cfg ∧ Inv emitState ∧
    HostQuiet emitState ∧ startsTick emitState = true ∧ emitState.time = emitState.alarm ∧
    emitState.presc = 1 ∧ emitState.seg = .swoop ∧ emitState.idx = 0 :=
  ⟨rfl, by unfold FrameFits; decide, witness_inv_emit, (quiet_nil rfl).1, by decide, by decide,
    by decide, by decide, by decide⟩

/-- `ConcatenatedCycleRepeats`. -/
theorem witness_concatenatedCycle :
    let s := tickState c5 0 .swoop 0 22
    s.cfg.policy = .concatenated ∧ FrameFits s.cfg ∧ Inv s ∧ HostQuiet s ∧ startsTick s = true ∧
    s.time = s.alarm ∧ s.presc = 1 ∧ s.idx = 0 :=
  ⟨by decide, by unfold FrameFits; decide, by constructor <;> decide, (quiet_nil rfl).1, by decide,
    by decide, by decide, by decide⟩

end Sys2Proof.Tests
end

/-! ## The tick operation of an edge: one inversion, and that it never stops -/

namespace Sys2Proof.Machine

/-- The segment after a transition tick (42_sequencer.md R164, R165, R167). -/
def nextSeg (c : Config) (g : Segment) : Segment :=
  match c.policy, g with
  | .segmented, .swoop => .chirp
  | .segmented, .chirp => .swoop
  | .concatenated, g => g

/-- `ph` and `w` are the phase and the DAC word that an emitting tick writes (42_sequencer.md R163, R166). -/
def EmitSample (s : State) (ph : Word) (w : DacWord) : Prop :=
  match s.cfg.policy with
  | .segmented => segSample s.cfg s.seg s.idx.toNat s.phase = .ok (ph, w)
  | .concatenated => ph = s.phase ∧ catSample s.cfg s.idx.toNat = .ok w

/-- The state after an emitting tick, `SEG_EMIT` or `CAT_EMIT` (42_sequencer.md R163, R166). -/
def emitTick (ph : Word) (w : DacWord) (s : State) : State :=
  emitFrame w { enterTick s.cfg.periodUs false s with phase := ph, idx := s.idx + 1 }

/-- The state after a transition tick (42_sequencer.md R164, R165, R167). -/
def transitionTick (s : State) : State :=
  { enterTick (r280Delay s) true s with idx := 0, seg := nextSeg s.cfg s.seg }

/-- What the tick operation of an edge can do, from the pre-edge state `s` to the state `u` that the write
command finds. -/
inductive TickStep (s : State) : State → Prop where
  | noTick (hstart : startsTick s = false) : TickStep s (beforeTick s)
  | emit (ph : Word) (w : DacWord) (hstart : startsTick s = true) (hlt : s.idx.toNat < s.len)
      (hsample : EmitSample s ph w) : TickStep s (emitTick ph w (beforeTick s))
  | transition (hstart : startsTick s = true) (hend : s.len ≤ s.idx.toNat) :
      TickStep s (transitionTick (beforeTick s))

theorem atEnd_eq_true_iff {s : State} : atEnd s = true ↔ s.len ≤ s.idx.toNat := by simp [atEnd]

theorem atEnd_eq_false_iff {s : State} : atEnd s = false ↔ s.idx.toNat < s.len := by simp [atEnd]

theorem startsTick_enable {s : State} (h : startsTick s = true) : s.enable = true := by
  simp only [startsTick, Bool.and_eq_true] at h
  obtain ⟨⟨⟨henable, -⟩, -⟩, -⟩ := h
  exact henable

@[simp] theorem beforeTick_len (s : State) : (beforeTick s).len = s.len := by simp [State.len]

@[simp] theorem emitSample_beforeTick {s : State} {ph : Word} {w : DacWord} :
    EmitSample (beforeTick s) ph w ↔ EmitSample s ph w := by
  simp [EmitSample]

/-- Below the end of its region a segment's sample exists (20_memory.md R61, R62). -/
theorem segSample_total {c : Config} (hp : c.policy = .segmented) {seg : Segment} {i : Nat}
    (hlt : i < c.regionLen seg) (phase : Word) : ∃ ph w, segSample c seg i phase = .ok (ph, w) := by
  obtain ⟨tb, hi⟩ := c.policy_segmented_iff.1 hp
  have hlen : i < c.segmentLen seg := by simpa [Params.regionLen, hp] using hlt
  obtain ⟨inc, e, raw, hinc, henv, hsine⟩ := segSample_exists c tb seg i phase hi hlen
  exact ⟨_, _, segSample_ok hi hinc henv hsine⟩

/-- Below the end of the buffer its sample exists (10_state.md R40). -/
theorem catSample_total {c : Config} (hp : c.policy = .concatenated) {seg : Segment} {i : Nat}
    (hlt : i < c.regionLen seg) : ∃ w, catSample c i = .ok w := by
  obtain ⟨pcm, hi⟩ := c.policy_concatenated_iff.1 hp
  have hlen : i < pcm.length := by
    simpa [c.pcm_length pcm hi, Params.regionLen, hp] using hlt
  exact ⟨_, catSample_ok hi (List.getElem?_eq_getElem hlen)⟩

/-- `SEG_EMIT` below the end of its region writes the sample at `IDX` (42_sequencer.md R163). -/
theorem exec_segEmit_next {s : State} (hp : s.cfg.policy = .segmented) (hlt : s.idx.toNat < s.len)
    (x : Segment) : ∃ ph w, EmitSample s ph w ∧ exec (.segEmit x) s = .next (emitTick ph w s) := by
  obtain ⟨ph, w, hs⟩ := segSample_total hp hlt s.phase
  exact ⟨ph, w, by simpa [EmitSample, hp] using hs,
    by simp [exec, execSegEmit, hs, withOperand, emitTick]⟩

/-- `CAT_EMIT` below the end of the buffer writes the entry at `IDX` (42_sequencer.md R166). -/
theorem exec_catEmit_next {s : State} (hp : s.cfg.policy = .concatenated) (hlt : s.idx.toNat < s.len)
    (x : Segment) : ∃ ph w, EmitSample s ph w ∧ exec (.catEmit x) s = .next (emitTick ph w s) := by
  obtain ⟨w, hs⟩ := catSample_total hp hlt
  exact ⟨s.phase, w, by simpa [EmitSample, hp] using hs, by
    simp only [exec, execCatEmit, hs, withOperand]; rfl⟩

/-- Below the end of the region the selected operation emits (30_encoding.md R84, R85). -/
theorem exec_selected_emit {s : State} (hlt : s.idx.toNat < s.len) :
    ∃ ph w, EmitSample s ph w ∧
      exec (decode (.ticksel (tickSelector s))) s = .next (emitTick ph w s) := by
  rw [decode_tickSelector, atEnd_eq_false_iff.2 hlt]
  cases hp : s.cfg.policy with
  | segmented => exact exec_segEmit_next hp hlt s.seg
  | concatenated => exact exec_catEmit_next hp hlt s.seg

/-- At the end of the region the selected operation is the transition of the policy and the segment
(30_encoding.md R84, R85). -/
theorem exec_selected_transition {s : State} (hend : s.len ≤ s.idx.toNat) :
    exec (decode (.ticksel (tickSelector s))) s = .next (transitionTick s) := by
  rw [decode_tickSelector, atEnd_eq_true_iff.2 hend]
  have hnlt : ¬s.idx.toNat < s.len := Nat.not_lt.2 hend
  cases hp : s.cfg.policy with
  | segmented =>
    cases hg : s.seg <;>
      simp [exec, execSegFlipS2C, execSegFlipC2SRest, transitionTick, nextSeg, r280Delay, hnlt, hp, hg]
  | concatenated =>
    simp only [exec, execCatWrapRest, transitionTick, nextSeg, r280Delay, hnlt, hp, if_false]
    rfl

@[simp] theorem beforeTick_tickSelector (s : State) : tickSelector (beforeTick s) = tickSelector s := by
  simp [tickSelector, atEnd]

/-- The tick operation of an edge never stops, and does what `TickStep` says. -/
theorem tickOperation_next (s : State) :
    ∃ u, tickOperation s (beforeTick s) = .next u ∧ TickStep s u := by
  unfold tickOperation
  cases hstart : startsTick s
  · exact ⟨_, rfl, .noTick hstart⟩
  · rw [if_pos rfl, ← beforeTick_tickSelector]
    by_cases hlt : s.idx.toNat < s.len
    · obtain ⟨ph, w, hsample, hexec⟩ := exec_selected_emit (s := beforeTick s) (by simpa using hlt)
      exact ⟨_, hexec, .emit ph w hstart hlt (emitSample_beforeTick.1 hsample)⟩
    · have hend : s.len ≤ s.idx.toNat := Nat.not_lt.1 hlt
      exact ⟨_, exec_selected_transition (by simpa using hend), .transition hstart hend⟩

theorem tickStep_of_tickOperation {s u : State} (h : tickOperation s (beforeTick s) = .next u) :
    TickStep s u := by
  obtain ⟨u', hu', hstep⟩ := tickOperation_next s
  rw [hu', Host.Outcome.next.injEq] at h
  exact h ▸ hstep

end Sys2Proof.Machine

/-! ## A step never stops, and what a reset edge leaves -/

namespace Sys2Proof.Machine

/-- No step stops, from any state and with any input. -/
theorem step_total (s : State) : ∃ t, step s = .next t := by
  obtain ⟨v, hv⟩ := readCommand_next s.input s
  obtain ⟨u, hu, -⟩ := tickOperation_next (putRdata v s)
  unfold step edge
  rw [hv, andThen_next]
  cases hrst : (putRdata v s).input.rst
  · simp [runningEdge, hu, writeCommand_next]
  · exact ⟨_, rfl⟩

/-- A reset edge, whatever the state and the other inputs (70_reset_and_hazards.md R320). -/
theorem step_of_rst {s : State} (hrst : s.input.rst = true) :
    ∃ v, step s = .next (applyReset (nextCycle (putRdata v s))) := by
  obtain ⟨t, ht⟩ := step_total s
  obtain ⟨v, ⟨-, rfl⟩ | ⟨hrun, -⟩⟩ := step_cases ht
  · exact ⟨v, ht⟩
  · simp [hrst] at hrun

/-- The pins between frames outside a transition cycle: their reset levels (43_output.md R195, R199). -/
theorem pins_of_idle {s : State} (hbusy : s.busy = false) (hprobe : s.probePulse = false) :
    pins s = ⟨true, false, false, false⟩ := by
  simp [pins, dacCsN, dacSclk, dacMosi, probe, hbusy, hprobe]

/-- Settles O37: `step_of_rst` names the state after a reset edge, and each register of it is read off. -/
theorem resetEdgeLoadsTheResetValues : Obligations.ResetEdgeLoadsTheResetValues := by
  unfold Obligations.ResetEdgeLoadsTheResetValues
  intro s hrst
  obtain ⟨v, hstep⟩ := step_of_rst hrst
  refine ⟨_, hstep, ?_⟩
  have hpins := pins_of_idle (applyReset_busy (nextCycle (putRdata v s)))
    (applyReset_probePulse (nextCycle (putRdata v s)))
  simp [hpins]

end Sys2Proof.Machine

/-! ## The invariants R43 and R44: each part of an edge keeps them, so every run from reset does -/

namespace Sys2Proof.Machine

/-- The invariants read neither the port value nor the script. -/
theorem Inv.withPort {s : State} (h : Inv s) (v : Word) (is : List HostInput) :
    Inv { s with hostRdata := v, inputs := is } := { h with }

/-- The reset state meets the invariants, for every configuration and script. -/
theorem inv_resetOf (c : Config) (script : List HostInput) : Inv (State.resetOf c script) where
  armed_enabled := by simp
  pending_enabled := by simp
  not_armed_and_pending := by simp
  enabled_waits := by simp
  idle_count := by simp
  busy_valid := by simp
  concatenated_still := by simp
  index_range := by simp
  presc_range := by
    have := c.two_le_clkPerUs
    simp only [resetOf_presc, resetOf_cfg]; omega
  xcnt_range := by
    have hpos := c.xferCycles_pos
    have hzero : frameCycle (State.resetOf c script) = 0 := frameCycle_eq_zero.2 ⟨rfl, rfl⟩
    simp only [hzero, resetOf_cfg]; omega

theorem frameEnds_eq_true_iff {s : State} :
    frameEnds s = true ↔ s.busy = true ∧ frameCycle s = s.cfg.xferCycles - 1 := by
  simp [frameEnds]

theorem fires_armed {s : State} (h : fires s = true) : s.armed = true := by
  simp only [fires, Bool.and_eq_true] at h
  obtain ⟨⟨harmed, -⟩, -⟩ := h
  exact harmed

/-- A fire turns the armed deadline into a pending firing (44_timer.md R224). -/
theorem inv_applyFire {s : State} (h : Inv s) : Inv (applyFire s) := by
  unfold applyFire
  split
  case isTrue hfire =>
    have henable : s.enable = true := h.armed_enabled (fires_armed hfire)
    exact { h with
      armed_enabled := fun _ => henable
      pending_enabled := fun _ => henable
      not_armed_and_pending := by simp
      enabled_waits := fun _ => .inr rfl }
  case isFalse => exact h

/-- A frame's count ends at 0 or stays below `XFER_CYCLES` (43_output.md R194). -/
theorem inv_frameProgress {s : State} (h : Inv s) : Inv (frameProgress s) := by
  unfold frameProgress
  split
  case isTrue =>
    have hpos := s.cfg.xferCycles_pos
    exact { h with
      idle_count := fun _ => ⟨rfl, rfl⟩
      busy_valid := by simp
      xcnt_range := by
        rw [frameCycle_eq_zero.2 ⟨rfl, rfl⟩]
        exact (by omega : 0 < s.cfg.xferCycles) }
  case isFalse hends =>
    split
    case isTrue hbusy =>
      have hne : frameCycle s ≠ s.cfg.xferCycles - 1 := fun hlast =>
        hends (frameEnds_eq_true_iff.2 ⟨hbusy, hlast⟩)
      have hlt := h.xcnt_range
      exact { h with
        idle_count := by simp [hbusy]
        xcnt_range := by
          simp only [countCycle_frameCycle, countCycle_cfg]; omega }
    case isFalse => exact h

/-- What runs before the tick operation keeps the invariants. -/
theorem inv_beforeTick {s : State} (h : Inv s) : Inv (beforeTick s) :=
  { inv_frameProgress (inv_applyFire h) with }

/-- An emitting tick of an enabled block keeps the invariants: it rearms, and `IDX` stays in its region,
which fits 24 bits (00_scope.md R10 (f)). -/
theorem inv_emitTick {s : State} {ph : Word} {w : DacWord} (h : Inv s) (henable : s.enable = true)
    (hlt : s.idx.toNat < s.len) (hsample : EmitSample s ph w) : Inv (emitTick ph w s) where
  armed_enabled := fun _ => henable
  pending_enabled := fun _ => henable
  not_armed_and_pending := by simp [emitTick]
  enabled_waits := fun _ => .inl rfl
  idle_count := by simp [emitTick]
  busy_valid := fun _ => rfl
  concatenated_still := by
    intro (hp : s.cfg.policy = .concatenated)
    obtain ⟨hseg, hphase⟩ := h.concatenated_still hp
    have hkept : ph = s.phase := by
      simp only [EmitSample, hp] at hsample
      exact hsample.1
    exact ⟨hseg, hkept.trans hphase⟩
  index_range := by
    have hfit : s.len ≤ 2 ^ 24 - 1 := s.cfg.regionLen_le s.seg
    change (s.idx + 1).toNat ≤ s.len
    rw [BitVec.toNat_add_of_lt (by simp; omega)]
    exact hlt
  presc_range := h.presc_range
  xcnt_range := by
    have hpos := s.cfg.xferCycles_pos
    rw [emitTick, emitFrame_frameCycle]
    exact (by omega : 0 < s.cfg.xferCycles)

theorem nextSeg_of_concatenated {c : Config} (hp : c.policy = .concatenated) (g : Segment) :
    nextSeg c g = g := by
  simp [nextSeg, hp]

/-- A transition tick of an enabled block keeps the invariants: it rearms, and only `SEGMENTED` changes
`SEG`. -/
theorem inv_transitionTick {s : State} (h : Inv s) (henable : s.enable = true) :
    Inv (transitionTick s) :=
  { h with
    armed_enabled := fun _ => henable
    pending_enabled := fun _ => henable
    not_armed_and_pending := by simp [transitionTick]
    enabled_waits := fun _ => .inl rfl
    concatenated_still := by
      intro (hp : s.cfg.policy = .concatenated)
      obtain ⟨hseg, hphase⟩ := h.concatenated_still hp
      exact ⟨(nextSeg_of_concatenated hp s.seg).trans hseg, hphase⟩
    index_range := Nat.zero_le _ }

theorem inv_of_tickStep {s u : State} (h : Inv s) (htick : TickStep s u) : Inv u := by
  have hb : Inv (beforeTick s) := inv_beforeTick h
  cases htick with
  | noTick => exact hb
  | emit ph w hstart hlt hsample =>
    exact inv_emitTick hb (by simpa using startsTick_enable hstart) (by simpa using hlt)
      (emitSample_beforeTick.2 hsample)
  | transition hstart => exact inv_transitionTick hb (by simpa using startsTick_enable hstart)

/-- The enabling write arms, the disabling write discards, and no other write has an effect
(45_host.md R265). -/
theorem inv_writeCtrl {s : State} (h : Inv s) (d : Word) : Inv (writeCtrl d s) := by
  obtain ⟨-, -, hw⟩ | ⟨-, -, hw⟩ | ⟨-, hw⟩ := writeCtrl_cases d s <;> rw [hw]
  · exact { h with
      armed_enabled := fun _ => rfl
      pending_enabled := fun _ => rfl
      not_armed_and_pending := by simp
      enabled_waits := fun _ => .inl rfl }
  · exact { h with
      armed_enabled := by simp
      pending_enabled := by simp
      not_armed_and_pending := by simp
      enabled_waits := by simp }
  · exact h

/-- The prescaler counts below `CLK_PER_US` (44_timer.md R221). -/
theorem inv_timeBase {s : State} (h : Inv s) : Inv (timeBase s) := by
  have hlt := h.presc_range
  unfold timeBase
  split
  case isTrue => exact { h with presc_range := (by omega : 0 < s.cfg.clkPerUs) }
  case isFalse => exact { h with presc_range := (by omega : s.presc + 1 < s.cfg.clkPerUs) }

/-- Every step keeps the invariants, each of its parts keeping them. -/
theorem inv_step {s t : State} (h : Inv s) (hstep : step s = .next t) : Inv t := by
  obtain ⟨v, ⟨-, rfl⟩ | ⟨-, u, hu, rfl⟩⟩ := step_cases hstep
  · exact (inv_resetOf s.cfg s.inputs.tail).withPort v s.inputs.tail
  · have hread : Inv (putRdata v s) := h.withPort v s.inputs
    have htick : Inv u := inv_of_tickStep hread (tickStep_of_tickOperation hu)
    have hwrite : Inv (if writesCtrl s.input then writeCtrl s.input.wdata u else u) := by
      split
      · exact inv_writeCtrl htick _
      · exact htick
    exact { inv_timeBase hwrite with }

theorem tickStep_cfg {s u : State} (htick : TickStep s u) : u.cfg = s.cfg := by
  cases htick with
  | noTick => simp
  | emit => simp [emitTick]
  | transition => simp [transitionTick]

/-- No step changes the configuration. -/
theorem step_cfg {s t : State} (hstep : step s = .next t) : t.cfg = s.cfg := by
  obtain ⟨v, ⟨-, rfl⟩ | ⟨-, u, hu, rfl⟩⟩ := step_cases hstep
  · rfl
  · have hcfg : u.cfg = (putRdata v s).cfg := tickStep_cfg (tickStep_of_tickOperation hu)
    split <;> simp [hcfg]

/-- One step, then `k` more edges. -/
theorem after_succ {k : Nat} {s u t : State} (hstep : step s = .next u) (h : After k u t) :
    After (k + 1) s t := by
  have hcore : Sys2Proof.core.step s = .next u := hstep
  simpa only [After, Host.Core.run, hcore] using h

/-- What every step keeps holds after any number of edges, and no run stops. -/
theorem after_of_step_keeps {P : State → Prop}
    (hkeeps : ∀ s t, P s → step s = .next t → P t) (k : Nat) :
    ∀ s, P s → ∃ t, After k s t ∧ P t := by
  induction k with
  | zero => exact fun s hs => ⟨s, rfl, hs⟩
  | succ k ih =>
    intro s hs
    obtain ⟨u, hstep⟩ := step_total s
    obtain ⟨t, hafter, ht⟩ := ih u (hkeeps s u hs hstep)
    exact ⟨t, after_succ hstep hafter, ht⟩

/-- An enabled block is armed or waits for its tick, and not both (10_state.md R43). -/
theorem Inv.enabled_exactly_one {s : State} (h : Inv s) (henable : s.enable = true) :
    (s.armed = true ∧ s.pending = false) ∨ (s.armed = false ∧ s.pending = true) := by
  have hnot := h.not_armed_and_pending
  obtain harmed | hpending := h.enabled_waits henable
  · exact .inl ⟨harmed, by simpa [harmed] using hnot⟩
  · exact .inr ⟨by simpa [hpending] using hnot, hpending⟩

/-- Settles O33: every step keeps the invariants and the configuration and none stops, so they hold at the
end of every run from reset. -/
theorem invariantsHoldAfterAnyEdgesFromReset : Obligations.InvariantsHoldAfterAnyEdgesFromReset := by
  unfold Obligations.InvariantsHoldAfterAnyEdgesFromReset
  intro c script k
  obtain ⟨t, hafter, hinv, hcfg⟩ :=
    after_of_step_keeps (P := fun s => Inv s ∧ s.cfg = c)
      (fun _ _ ⟨hinv, hcfg⟩ hstep => ⟨inv_step hinv hstep, (step_cfg hstep).trans hcfg⟩) k
      (State.resetOf c script) ⟨inv_resetOf c script, rfl⟩
  exact ⟨t, hafter, hinv.armed_enabled, hinv.pending_enabled, hinv.not_armed_and_pending,
    hinv.enabled_exactly_one, fun hidle => (hinv.idle_count hidle).1, hinv.busy_valid,
    fun hp => hinv.concatenated_still (hcfg ▸ hp), hcfg⟩

end Sys2Proof.Machine

/-! ## The tick selector: its word by its bits `P S E`, and the operation of each row of R85 -/

namespace Sys2Proof

/-- Every selector value is the word of its three bits (30_encoding.md R84). -/
theorem exists_eq_tickWord : ∀ b : BitVec 3, ∃ p s e, b = tickWord p s e := by decide

/-- The mask `0b101` reads the bits `P` and `E` and ignores `S` (30_encoding.md R85). -/
theorem tickWord_and_101_eq_iff : ∀ p s e p' e' : Bool,
    tickWord p s e &&& 0b101 = tickWord p' false e' ↔ p = p' ∧ e = e' := by decide

/-- The mask `0b111` reads all three bits (30_encoding.md R85). -/
theorem tickWord_and_111_eq_iff : ∀ p s e p' s' e' : Bool,
    tickWord p s e &&& 0b111 = tickWord p' s' e' ↔ p = p' ∧ s = s' ∧ e = e' := by decide

@[simp] theorem decode_tickWord_segEmit (s : Bool) :
    decode (.ticksel (tickWord false s false)) = .segEmit (segOfBit s) := by cases s <;> rfl

@[simp] theorem decode_tickWord_segFlipS2C :
    decode (.ticksel (tickWord false false true)) = .segFlipS2C := rfl

@[simp] theorem decode_tickWord_segFlipC2SRest :
    decode (.ticksel (tickWord false true true)) = .segFlipC2SRest := rfl

@[simp] theorem decode_tickWord_catEmit (s : Bool) :
    decode (.ticksel (tickWord true s false)) = .catEmit (segOfBit s) := by cases s <;> rfl

@[simp] theorem decode_tickWord_catWrapRest (s : Bool) :
    decode (.ticksel (tickWord true s true)) = .catWrapRest (segOfBit s) := by cases s <;> rfl

/-- The column `P S E` of 30_encoding.md R85: the bits say which operation a selector picks, and the
operation says which bits its selector has. -/
theorem tickWord_bits_iff_decode (p s e : Bool) :
    (p = false ∧ e = false ↔ ∃ x, decode (.ticksel (tickWord p s e)) = .segEmit x) ∧
    (p = false ∧ s = false ∧ e = true ↔ decode (.ticksel (tickWord p s e)) = .segFlipS2C) ∧
    (p = false ∧ s = true ∧ e = true ↔ decode (.ticksel (tickWord p s e)) = .segFlipC2SRest) ∧
    (p = true ∧ e = false ↔ ∃ x, decode (.ticksel (tickWord p s e)) = .catEmit x) ∧
    (p = true ∧ e = true ↔ ∃ x, decode (.ticksel (tickWord p s e)) = .catWrapRest x) := by
  match p, s, e with
  | false, s, false => simp
  | false, false, true => simp
  | false, true, true => simp
  | true, s, false => simp
  | true, s, true => simp

/-- Settles O2: a selector is the word of its bits, a mask and match test compares the bits that the mask
keeps, and those bits say which operation the selector picks. -/
theorem tickSelectorDecodesByMatchAndMask : Obligations.TickSelectorDecodesByMatchAndMask := by
  unfold Obligations.TickSelectorDecodesByMatchAndMask
  intro b
  obtain ⟨p, s, e, rfl⟩ := exists_eq_tickWord b
  obtain ⟨hsegEmit, hflipS2C, hflipC2S, hcatEmit, hcatWrap⟩ := tickWord_bits_iff_decode p s e
  exact ⟨(tickWord_and_101_eq_iff p s e false false).trans hsegEmit,
    (tickWord_and_111_eq_iff p s e false false true).trans hflipS2C,
    (tickWord_and_111_eq_iff p s e false true true).trans hflipC2S,
    (tickWord_and_101_eq_iff p s e true false).trans hcatEmit,
    (tickWord_and_101_eq_iff p s e true true).trans hcatWrap⟩

end Sys2Proof

/-! ## The envelope code and the magnitude as roundings, and how far the magnitude is from the real formula
(40_tables.md R120, R121, R128; 41_phase_sine.md R143) -/

namespace Sys2Proof.Machine

theorem roundHalfAway_of_nonneg {x : ℚ} (hx : 0 ≤ x) : roundHalfAway x = round x := by
  rw [roundHalfAway, if_pos hx, round_eq]

/-- Rounding a quotient is the integer division that R121 computes with. -/
theorem roundHalfAway_natCast_div (n d : Nat) (hd : 1 ≤ d) :
    roundHalfAway ((n : ℚ) / d) = ((2 * n + d) / (2 * d) : Nat) := by
  have hd0 : (d : ℚ) ≠ 0 := by exact_mod_cast Nat.ne_of_gt hd
  have hsum : (n : ℚ) / d + 1 / 2 = ((2 * n + d : Nat) : ℚ) / (2 * d : Nat) := by
    push_cast; field_simp
  rw [roundHalfAway, if_pos (by positivity), hsum, Rat.floor_natCast_div_natCast]
  push_cast; rfl

/-- Two numbers less than 1 apart round to integers at most 1 apart (40_tables.md R128). -/
theorem abs_round_sub_round_le_one {x y : ℚ} (h : |x - y| < 1) : |round x - round y| ≤ 1 := by
  obtain ⟨hlo, hhi⟩ := abs_lt.1 h
  have hxy : ((round x - round y : Int) : ℚ) < 2 := by
    push_cast; linarith [round_le_add_half x, sub_half_lt_round y]
  have hyx : ((round y - round x : Int) : ℚ) < 2 := by
    push_cast; linarith [round_le_add_half y, sub_half_lt_round x]
  have hxy' : round x - round y < 2 := by exact_mod_cast hxy
  have hyx' : round y - round x < 2 := by exact_mod_cast hyx
  exact abs_le.2 ⟨by omega, by omega⟩

/-- Rise, body and fall alike: an envelope sample is some `k` of the ramp's `ramp` steps, and its code is
the rounding of that fraction; the body is the full ramp. -/
theorem exists_rampStep {ramp : Nat} (hramp : 1 ≤ ramp) (len i : Nat) :
    ∃ k, k ≤ ramp ∧ envShape len ramp i = (k : ℚ) / ramp ∧
      envCode len ramp i = BitVec.ofNat 16 ((2 * k * 32768 + ramp) / (2 * ramp)) := by
  unfold envShape envCode
  by_cases hrise : i < ramp
  · exact ⟨i, hrise.le, by simp [hrise], by simp [hrise]⟩
  by_cases hbody : i < len - ramp
  · have hfull : (2 * ramp * 32768 + ramp) / (2 * ramp) = 32768 :=
      Nat.div_eq_of_lt_le (by omega) (by omega)
    have hramp0 : (ramp : ℚ) ≠ 0 := by exact_mod_cast Nat.ne_of_gt hramp
    exact ⟨ramp, le_rfl, by simp [hrise, hbody, hramp0], by simp [hrise, hbody, hfull]⟩
  · exact ⟨len - 1 - i, by omega, by simp [hrise, hbody], by simp [hrise, hbody]⟩

theorem envShape_nonneg {ramp : Nat} (hramp : 1 ≤ ramp) (len i : Nat) : 0 ≤ envShape len ramp i := by
  obtain ⟨k, -, hshape, -⟩ := exists_rampStep hramp len i
  rw [hshape]; positivity

/-- A step of the ramp has at most the code of 1.0. -/
theorem rampCode_le {k ramp : Nat} (hramp : 1 ≤ ramp) (hk : k ≤ ramp) :
    (2 * k * 32768 + ramp) / (2 * ramp) ≤ 0x8000 :=
  Nat.le_of_lt_succ (Nat.div_lt_of_lt_mul (by omega))

theorem envCode_toNat_le {ramp : Nat} (hramp : 1 ≤ ramp) (len i : Nat) :
    (envCode len ramp i).toNat ≤ 0x8000 := by
  obtain ⟨k, hk, -, hcode⟩ := exists_rampStep hramp len i
  rw [hcode, BitVec.toNat_ofNat]
  exact (Nat.mod_le _ _).trans (rampCode_le hramp hk)

/-- A generated code is the envelope shape times 2^15, rounded (40_tables.md R121). -/
theorem envCode_toNat_eq_roundHalfAway {ramp : Nat} (hramp : 1 ≤ ramp) (len i : Nat) :
    ((envCode len ramp i).toNat : Int) = roundHalfAway (envShape len ramp i * 2 ^ 15) := by
  obtain ⟨k, hk, hshape, hcode⟩ := exists_rampStep hramp len i
  have hscaled : (k : ℚ) / ramp * 2 ^ 15 = ((k * 32768 : Nat) : ℚ) / ramp := by push_cast; ring
  have hlt : (2 * k * 32768 + ramp) / (2 * ramp) < 2 ^ 16 :=
    (rampCode_le hramp hk).trans_lt (by decide)
  rw [hshape, hscaled, roundHalfAway_natCast_div _ _ hramp, hcode, BitVec.toNat_ofNat,
    Nat.mod_eq_of_lt hlt, Nat.mul_assoc]

/-- A generated code is within 1/2 of the envelope shape times 2^15 (40_tables.md R128). -/
theorem abs_envCode_sub_envShape_le {ramp : Nat} (hramp : 1 ≤ ramp) (len i : Nat) :
    |((envCode len ramp i).toNat : ℚ) - envShape len ramp i * 2 ^ 15| ≤ 1 / 2 := by
  have hround : (envCode len ramp i).toNat = round (envShape len ramp i * 2 ^ 15) :=
    (envCode_toNat_eq_roundHalfAway hramp len i).trans
      (roundHalfAway_of_nonneg (mul_nonneg (envShape_nonneg hramp len i) (by norm_num)))
  rw [← Int.cast_natCast, hround, abs_sub_comm]
  exact abs_sub_round _

/-- For a code of at most 1.0 the product is at most 4095, so the mask keeps it: the magnitude is the
rounded product (41_phase_sine.md R143). -/
theorem mag_eq_roundHalfAway {raw : Int} {n : Nat} (e : EnvCode) (hraw : raw + 2048 = n) (hn : n ≤ 4095)
    (he : e.toNat ≤ 0x8000) : (mag raw e : Int) = roundHalfAway ((n : ℚ) * e.toNat / 2 ^ 15) := by
  have hsample : (raw + dacOffset).toNat = n := by simp [dacOffset, hraw]
  have hprod : n * e.toNat ≤ 4095 * 0x8000 := Nat.mul_le_mul hn he
  have hquot : (n : ℚ) * e.toNat / 2 ^ 15 = ((n * e.toNat : Nat) : ℚ) / (2 ^ 15 : Nat) := by push_cast; rfl
  have hmask : (0xFFF : Nat) = 2 ^ 12 - 1 := rfl
  rw [hquot, roundHalfAway_natCast_div _ _ (by decide), mag, hsample, Nat.shiftRight_eq_div_pow, hmask,
    Nat.and_two_pow_sub_one_eq_mod]
  omega

/-- Settles O13: the code is within 1/2 of the scaled shape, so the two products are less than 1/16 apart
and round to integers at most 1 apart; for an exact code they are the same product. -/
theorem magnitudeWithinOneOfTheRealFormula : Obligations.MagnitudeWithinOneOfTheRealFormula := by
  unfold Obligations.MagnitudeWithinOneOfTheRealFormula
  intro raw len ramp i hlo hhi hramp _ _
  obtain ⟨n, hn⟩ := Int.eq_ofNat_of_zero_le (show 0 ≤ raw + 2048 by omega)
  have hn4095 : n ≤ 4095 := by omega
  have hnRat : (n : ℚ) ≤ 4095 := by exact_mod_cast hn4095
  have hmag := mag_eq_roundHalfAway _ hn hn4095 (envCode_toNat_le hramp len i)
  have hcode := abs_envCode_sub_envShape_le hramp len i
  have hshape := envShape_nonneg hramp len i
  rw [hmag, hn, Int.cast_natCast]
  generalize envShape len ramp i = shape at hcode hshape ⊢
  generalize (envCode len ramp i).toNat = code at hcode ⊢
  constructor
  · have hclose : |(n : ℚ) * code / 2 ^ 15 - n * shape| < 1 := by
      calc |(n : ℚ) * code / 2 ^ 15 - n * shape|
          = |(n : ℚ) / 2 ^ 15 * (code - shape * 2 ^ 15)| := by congr 1; ring
        _ = (n : ℚ) / 2 ^ 15 * |code - shape * 2 ^ 15| := by rw [abs_mul, abs_of_nonneg (by positivity)]
        _ ≤ 4095 / 2 ^ 15 * (1 / 2) := by gcongr
        _ < 1 := by norm_num
    rw [roundHalfAway_of_nonneg (by positivity), roundHalfAway_of_nonneg (by positivity)]
    exact abs_round_sub_round_le_one hclose
  · intro hexact
    have hsame : (n : ℚ) * code / 2 ^ 15 = n * shape := by rw [hexact]; ring
    rw [hsame]

end Sys2Proof.Machine

/-! ## The magnitude for every code, and at the codes of 0 and 1.0 (41_phase_sine.md R143, R145) -/

namespace Sys2Proof.Machine

/-- With the offset sample `u = raw + 2048` a natural number, the shift is a division and the mask a
remainder (41_phase_sine.md R143, R145). -/
theorem mag_eq_div_mod {raw : Int} {u : Nat} (e : EnvCode) (hu : raw + 2048 = u) :
    mag raw e = (u * e.toNat + 2 ^ 14) / 2 ^ 15 % 2 ^ 12 := by
  have hsample : (raw + dacOffset).toNat = u := by simp [dacOffset, hu]
  have hmask : (0xFFF : Nat) = 2 ^ 12 - 1 := rfl
  rw [mag, hsample, Nat.shiftRight_eq_div_pow, hmask, Nat.and_two_pow_sub_one_eq_mod]

/-- Rounding `k / 2^15` with ties upward is adding half a unit and dropping the fraction bits. -/
theorem floor_div_add_half (k : Nat) :
    ⌊(k : ℚ) / 2 ^ 15 + 1 / 2⌋ = ((k + 2 ^ 14) / 2 ^ 15 : Nat) := by
  have hround := roundHalfAway_natCast_div k (2 ^ 15) (by decide)
  rw [roundHalfAway, if_pos (by positivity), Nat.cast_pow, Nat.cast_ofNat] at hround
  rw [hround]
  omega

/-- Settles O10: the model's shift and mask are the floor and the remainder of the statement; a code of 0
leaves only the rounding half, which is dropped, and a code of 0x8000 multiplies by exactly 2^15. -/
theorem magnitudeRoundsTheScaledSample : Obligations.MagnitudeRoundsTheScaledSample := by
  unfold Obligations.MagnitudeRoundsTheScaledSample
  intro raw e hlo hhi
  obtain ⟨u, hu⟩ := Int.eq_ofNat_of_zero_le (show 0 ≤ raw + 2048 by omega)
  refine ⟨?rounded, ?codeZero, ?codeOne⟩
  case rounded =>
    rw [mag_eq_div_mod e hu, hu, Int.cast_natCast, ← Nat.cast_mul, floor_div_add_half]
    rfl
  case codeZero =>
    have hcode : (0 : EnvCode).toNat = 0 := rfl
    rw [mag_eq_div_mod 0 hu, hcode]
    omega
  case codeOne =>
    have hcode : (0x8000 : EnvCode).toNat = 2 ^ 15 := rfl
    rw [mag_eq_div_mod 0x8000 hu, hcode]
    omega

end Sys2Proof.Machine

/-! ## The tick operations: the common effects, the emitting ticks and the transition ticks
(42_sequencer.md R162 to R168) -/

namespace Sys2Proof.Machine

theorem toNat_saturatingSucc (m : Word) :
    (saturatingSucc m).toNat = min (m.toNat + 1) (2 ^ 32 - 1) := by
  rw [saturatingSucc, BitVec.toNat_ofNat, Nat.mod_eq_of_lt]
  omega

theorem isLate_eq_true_iff {s : State} : isLate s = true ↔ s.time ≠ s.alarm := by simp [isLate]

/-- Entering a tick has the effects common to every tick operation (42_sequencer.md R162). -/
theorem tickEffects_enterTick (delay : Nat) (transition : Bool) (s : State) :
    TickEffects delay transition s (enterTick delay transition s) where
  acknowledged := enterTick_pending ..
  rearmed := enterTick_armed ..
  deadline_set := by rw [enterTick_alarm, deadline, BitVec.toNat_ofNat]
  on_time := fun hontime => by
    rw [enterTick_missed, if_neg (fun hlate => isLate_eq_true_iff.1 hlate hontime)]
  late_counted := fun hlate => by
    rw [enterTick_missed, if_pos (isLate_eq_true_iff.2 hlate), toNat_saturatingSucc]
  probe_marked := enterTick_probePulse ..

/-- What an emitting tick writes after entering is outside the common effects. -/
theorem tickEffects_emitTick (ph : Word) (w : DacWord) (s : State) :
    TickEffects s.cfg.periodUs false s (emitTick ph w s) :=
  { tickEffects_enterTick s.cfg.periodUs false s with }

/-- The index of an emitting tick advances without wrapping: a region fits 24 bits (00_scope.md R10 (f)). -/
theorem toNat_emitTick_idx {s : State} (hlt : s.idx.toNat < s.len) (ph : Word) (w : DacWord) :
    (emitTick ph w s).idx.toNat = s.idx.toNat + 1 := by
  have hfit : s.len ≤ 2 ^ 24 - 1 := s.cfg.regionLen_le s.seg
  have hone : (1 : Index).toNat = 1 := rfl
  change (s.idx + 1).toNat = s.idx.toNat + 1
  rw [BitVec.toNat_add, hone]
  omega

/-- The state after a transition tick to the start of segment `g`, with the delay it rearms with. -/
def turnTick (delay : Nat) (g : Segment) (s : State) : State :=
  { enterTick delay true s with idx := 0, seg := g }

theorem exec_segFlipS2C (s : State) :
    exec .segFlipS2C s = .next (turnTick s.cfg.periodUs .chirp s) := rfl

theorem exec_segFlipC2SRest (s : State) :
    exec .segFlipC2SRest s = .next (turnTick (s.cfg.periodUs + s.cfg.restUs) .swoop s) := rfl

theorem exec_catWrapRest (x : Segment) (s : State) :
    exec (.catWrapRest x) s = .next (turnTick (s.cfg.periodUs + s.cfg.restUs) s.seg s) := rfl

/-- A transition tick has the common effects: what it writes after entering is outside them. -/
theorem tickEffects_turnTick (delay : Nat) (g : Segment) (s : State) :
    TickEffects delay true s (turnTick delay g s) :=
  { tickEffects_enterTick delay true s with }

/-- A transition tick leaves the phase, the frame and the sent word alone (42_sequencer.md R168). -/
theorem nothingSent_turnTick (delay : Nat) (g : Segment) (s : State) :
    NothingSent s (turnTick delay g s) := by
  constructor <;> rfl

/-- Settles O17: the operation is the transition tick to CHIRP, with a delay of one period. -/
theorem segFlipS2CTurnsToChirp : Obligations.SegFlipS2CTurnsToChirp := by
  unfold Obligations.SegFlipS2CTurnsToChirp
  intro s
  exact ⟨_, exec_segFlipS2C s, rfl, rfl, tickEffects_turnTick .., nothingSent_turnTick ..⟩

/-- Settles O18: the operation is the transition tick to SWOOP, with the rest added to the delay. -/
theorem segFlipC2SRestTurnsToSwoopAndRests : Obligations.SegFlipC2SRestTurnsToSwoopAndRests := by
  unfold Obligations.SegFlipC2SRestTurnsToSwoopAndRests
  intro s
  exact ⟨_, exec_segFlipC2SRest s, rfl, rfl, tickEffects_turnTick .., nothingSent_turnTick ..⟩

/-- Settles O20: the operation is the transition tick to the segment in force, with the rest added to the
delay. -/
theorem catWrapRestReturnsToTheStartAndRests : Obligations.CatWrapRestReturnsToTheStartAndRests := by
  unfold Obligations.CatWrapRestReturnsToTheStartAndRests
  intro s x
  exact ⟨_, exec_catWrapRest x s, rfl, rfl, tickEffects_turnTick .., nothingSent_turnTick ..⟩

/-- The control nibble stands above the low 12 bits of the magnitude (43_output.md R190). -/
theorem toNat_dacWord (nibble : BitVec 4) (m : Nat) :
    (dacWord nibble m).toNat = nibble.toNat * 2 ^ 12 + m % 2 ^ 12 := by
  have hmask : (0xFFF : Nat) = 2 ^ 12 - 1 := rfl
  have hnibble := nibble.isLt
  have hlow : m % 2 ^ 12 < 2 ^ 12 := Nat.mod_lt _ (by decide)
  rw [dacWord, hmask, Nat.and_two_pow_sub_one_eq_mod, ← Nat.shiftLeft_add_eq_or_of_lt hlow,
    Nat.shiftLeft_eq, BitVec.toNat_ofNat, Nat.mod_eq_of_lt]
  omega

/-- The magnitude of a sine entry, over the integers: a 12-bit sample is at least -2048, so the offset sum
is not negative (41_phase_sine.md R143, R145). -/
theorem mag_rawSample (raw : Sample) (e : EnvCode) :
    (mag (rawSample raw) e : Int) = ((raw.toInt + 2048) * e.toNat + 2 ^ 14) / 2 ^ 15 % 4096 := by
  have hlo : -2048 ≤ raw.toInt := BitVec.le_toInt raw
  obtain ⟨u, hu⟩ := Int.eq_ofNat_of_zero_le (show 0 ≤ raw.toInt + 2048 by omega)
  rw [rawSample, mag_eq_div_mod e hu, hu]
  norm_cast

/-- The sine index is the quotient of the phase by the table's step (41_phase_sine.md R141). -/
theorem sineIndex_eq_div (c : Config) (ph : Word) :
    sineIndex c.shift ph = ph.toNat / 2 ^ (32 - c.sineBits) := by
  rw [sineIndex, Nat.shiftRight_eq_div_pow, Params.shift]

/-- The sample of `SEG_EMIT` is the one its entries at `IDX` give (42_sequencer.md R163). -/
theorem EmitSample.eq_of_entries {s : State} {tb : SegmentTables} {inc : Word} {e : EnvCode}
    {raw : Sample} {ph : Word} {w : DacWord} (h : EmitSample s ph w)
    (hi : s.cfg.images = .segmented tb) (hinc : (tb.inc s.seg)[s.idx.toNat]? = some inc)
    (henv : (tb.env s.seg)[s.idx.toNat]? = some e)
    (hsine : tb.sine[sineIndex s.cfg.shift (phaseAdd s.phase inc)]? = some raw) :
    ph = phaseAdd s.phase inc ∧ w = dacWord s.cfg.ctrlNibble (mag (rawSample raw) e) := by
  have hp := s.cfg.policy_segmented_iff.2 ⟨tb, hi⟩
  simp only [EmitSample, hp, segSample_ok hi hinc henv hsine, Except.ok.injEq, Prod.mk.injEq] at h
  obtain ⟨hph, hw⟩ := h
  exact ⟨hph.symm, hw.symm⟩

/-- The sample of `CAT_EMIT` is the buffer entry at `IDX`, and the phase is kept (42_sequencer.md R166). -/
theorem EmitSample.eq_of_entry {s : State} {pcm : List Sample} {m : Sample} {ph : Word} {w : DacWord}
    (h : EmitSample s ph w) (hi : s.cfg.images = .concatenated pcm)
    (hm : pcm[s.idx.toNat]? = some m) :
    ph = s.phase ∧ w = dacWord s.cfg.ctrlNibble m.toNat := by
  have hp := s.cfg.policy_concatenated_iff.2 ⟨pcm, hi⟩
  simp only [EmitSample, hp, catSample_ok hi hm, Except.ok.injEq] at h
  obtain ⟨hph, hw⟩ := h
  exact ⟨hph, hw.symm⟩

/-- Settles O16: below the end of the segment all three entries exist, and the emitting tick with their
phase and word has every effect of the statement. -/
theorem segEmitSendsOneSample : Obligations.SegEmitSendsOneSample := by
  unfold Obligations.SegEmitSendsOneSample
  intro s x tb hi hlt
  have hp := s.cfg.policy_segmented_iff.2 ⟨tb, hi⟩
  have hlen : s.idx.toNat < s.len := by simpa [State.len, Params.regionLen, hp] using hlt
  obtain ⟨inc, e, raw, hinc, henv, hsine⟩ :=
    segSample_exists s.cfg tb s.seg s.idx.toNat s.phase hi hlt
  obtain ⟨ph, w, hsample, hexec⟩ := exec_segEmit_next hp hlen x
  obtain ⟨rfl, rfl⟩ := hsample.eq_of_entries hi hinc henv hsine
  have hword : ((dacWord s.cfg.ctrlNibble (mag (rawSample raw) e)).toNat : Int) =
      s.cfg.ctrlNibble.toNat * 2 ^ 12 + ((raw.toInt + 2048) * e.toNat + 2 ^ 14) / 2 ^ 15 % 4096 := by
    have hmag := mag_rawSample raw e
    rw [toNat_dacWord]
    omega
  exact ⟨inc, e, raw, _, hexec, hinc, henv,
    BitVec.toNat_add .., sineIndex_eq_div s.cfg _ ▸ hsine, hword, toNat_emitTick_idx hlen _ _,
    rfl, rfl, rfl, rfl, tickEffects_emitTick .., rfl⟩

/-- Settles O19: below the end of the buffer the entry exists, and the emitting tick with its word and the
phase unchanged has every effect of the statement. -/
theorem catEmitSendsOneEntry : Obligations.CatEmitSendsOneEntry := by
  unfold Obligations.CatEmitSendsOneEntry
  intro s x pcm hi hlt
  have hp := s.cfg.policy_concatenated_iff.2 ⟨pcm, hi⟩
  have hlen : s.idx.toNat < s.len := by simpa [State.len, Params.regionLen, hp] using hlt
  obtain ⟨m, hm⟩ : ∃ m, pcm[s.idx.toNat]? = some m :=
    ⟨_, List.getElem?_eq_getElem ((s.cfg.pcm_length pcm hi).symm ▸ hlt)⟩
  obtain ⟨ph, w, hsample, hexec⟩ := exec_catEmit_next hp hlen x
  obtain ⟨rfl, rfl⟩ := hsample.eq_of_entry hi hm
  have hword : (dacWord s.cfg.ctrlNibble m.toNat).toNat =
      s.cfg.ctrlNibble.toNat * 2 ^ 12 + m.toNat := by
    rw [toNat_dacWord, Nat.mod_eq_of_lt m.isLt]
  exact ⟨m, _, hexec, hm, hword, toNat_emitTick_idx hlen _ _,
    rfl, rfl, rfl, rfl, tickEffects_emitTick .., rfl⟩

end Sys2Proof.Machine

/-! ## Lateness changes only the missed count (44_timer.md R229) -/

namespace Sys2Proof.Machine

/-- The operation of selector `b`, run from `s` with any deadline, answers with the tick `tick`. -/
def AnswersForEveryAlarm (b : BitVec 3) (s : State) (tick : State → State) : Prop :=
  ∀ a : Word, exec (decode (.ticksel b)) { s with alarm := a } = .next (tick { s with alarm := a })

/-- A tick operation that answers sends one sample or turns to the start of a segment, and which of these it
does is not read from the deadline. -/
theorem emitTick_or_turnTick_for_every_alarm {b : BitVec 3} {s t : State}
    (h : exec (decode (.ticksel b)) s = .next t) :
    (∃ ph w, AnswersForEveryAlarm b s (emitTick ph w)) ∨
      ∃ delay g, AnswersForEveryAlarm b s (turnTick delay g) := by
  obtain ⟨p, seg, e, rfl⟩ := exists_eq_tickWord b
  match p, seg, e with
  | false, seg, false =>
    rw [decode_tickWord_segEmit] at h
    obtain ⟨⟨ph, w⟩, hsample, -⟩ := withOperand_eq_next.1 h
    refine .inl ⟨ph, w, fun a => ?_⟩
    rw [decode_tickWord_segEmit]
    exact withOperand_eq_next.2 ⟨_, hsample, rfl⟩
  | true, seg, false =>
    rw [decode_tickWord_catEmit] at h
    obtain ⟨w, hsample, -⟩ := withOperand_eq_next.1 h
    refine .inl ⟨s.phase, w, fun a => ?_⟩
    rw [decode_tickWord_catEmit]
    exact withOperand_eq_next.2 ⟨_, hsample, rfl⟩
  | false, false, true =>
    exact .inr ⟨s.cfg.periodUs, .chirp, fun _ => by
      rw [decode_tickWord_segFlipS2C, exec_segFlipS2C]⟩
  | false, true, true =>
    exact .inr ⟨s.cfg.periodUs + s.cfg.restUs, .swoop, fun _ => by
      rw [decode_tickWord_segFlipC2SRest, exec_segFlipC2SRest]⟩
  | true, seg, true =>
    exact .inr ⟨s.cfg.periodUs + s.cfg.restUs, s.seg, fun _ => by
      rw [decode_tickWord_catWrapRest, exec_catWrapRest]⟩

/-- What `LatenessChangesOnlyTheCount` says of a tick that reads the deadline for its late check only. -/
theorem lateness_of_answersForEveryAlarm {b : BitVec 3} {s t : State} {tick : State → State}
    {delay : Nat} {transition : Bool} (hanswers : AnswersForEveryAlarm b s tick)
    (heffects : TickEffects delay transition s (tick s))
    (hsame : ∀ a, tick { s with alarm := a } =
      { tick s with missed := (tick { s with alarm := a }).missed })
    (h : exec (decode (.ticksel b)) s = .next t) (a : Word) :
    ∃ u, exec (decode (.ticksel b)) { s with alarm := a } = .next u ∧
      u = { t with missed := u.missed } ∧ (s.time = s.alarm → t.missed = s.missed) ∧
      (s.time ≠ s.alarm → t.missed.toNat = min (s.missed.toNat + 1) (2 ^ 32 - 1)) := by
  have hown : exec (decode (.ticksel b)) s = .next (tick s) := hanswers s.alarm
  obtain rfl : tick s = t := Host.Outcome.next.inj (hown.symm.trans h)
  exact ⟨_, hanswers a, hsame a, heffects.on_time, heffects.late_counted⟩

/-- Settles O22: the deadline does not choose the tick, and an emitting tick and a transition tick read it
for the late check only. -/
theorem latenessChangesOnlyTheCount : Obligations.LatenessChangesOnlyTheCount := by
  unfold Obligations.LatenessChangesOnlyTheCount
  intro b s t a h
  obtain ⟨ph, w, hanswers⟩ | ⟨delay, g, hanswers⟩ := emitTick_or_turnTick_for_every_alarm h
  · exact lateness_of_answersForEveryAlarm hanswers (tickEffects_emitTick ph w s) (fun _ => rfl) h a
  · exact lateness_of_answersForEveryAlarm hanswers (tickEffects_turnTick delay g s) (fun _ => rfl) h a

end Sys2Proof.Machine

/-! ## The time base counts the edges (44_timer.md R221, R222) -/

namespace Sys2Proof.Machine

/-- The time base of `t` stands `k` cycles after that of `s`: the prescaler counts modulo `CLK_PER_US`, and
the time counter counts its wraps modulo 2^32. -/
structure TimeBaseAdvances (k : Nat) (s t : State) : Prop where
  cfg_kept : t.cfg = s.cfg
  presc_counts : t.presc = (s.presc + k) % s.cfg.clkPerUs
  time_counts : t.time.toNat = (s.time.toNat + (s.presc + k) / s.cfg.clkPerUs) % 2 ^ 32

theorem timeBaseAdvances_zero {s : State} (hp : s.presc < s.cfg.clkPerUs) : TimeBaseAdvances 0 s s where
  cfg_kept := rfl
  presc_counts := by rw [Nat.add_zero, Nat.mod_eq_of_lt hp]
  time_counts := by
    rw [Nat.add_zero, Nat.div_eq_of_lt hp, Nat.add_zero, Nat.mod_eq_of_lt s.time.isLt]

/-- The wraps of a counter modulo `c` over two stretches add up. -/
theorem div_add_mod_add_div {c : Nat} (hc : 0 < c) (n m : Nat) :
    n / c + (n % c + m) / c = (n + m) / c := by
  calc n / c + (n % c + m) / c = (c * (n / c) + (n % c + m)) / c := (Nat.mul_add_div hc _ _).symm
    _ = (n + m) / c := by rw [← Nat.add_assoc, Nat.div_add_mod]

theorem TimeBaseAdvances.trans {j k : Nat} {s u t : State} (hu : TimeBaseAdvances j s u)
    (ht : TimeBaseAdvances k u t) : TimeBaseAdvances (j + k) s t where
  cfg_kept := ht.cfg_kept.trans hu.cfg_kept
  presc_counts := by
    rw [ht.presc_counts, hu.cfg_kept, hu.presc_counts, Nat.mod_add_mod, Nat.add_assoc]
  time_counts := by
    have hclk : 0 < s.cfg.clkPerUs := Nat.two_pos.trans_le s.cfg.two_le_clkPerUs
    rw [ht.time_counts, hu.cfg_kept, hu.presc_counts, hu.time_counts, Nat.mod_add_mod,
      Nat.add_assoc, div_add_mod_add_div hclk, Nat.add_assoc]

theorem TimeBaseAdvances.presc_lt {k : Nat} {s t : State} (h : TimeBaseAdvances k s t) :
    t.presc < t.cfg.clkPerUs := by
  rw [h.presc_counts, h.cfg_kept]
  exact Nat.mod_lt _ (Nat.two_pos.trans_le s.cfg.two_le_clkPerUs)

/-- The time base counts one cycle (44_timer.md R221, R222). -/
theorem timeBaseAdvances_timeBase {s : State} (hp : s.presc < s.cfg.clkPerUs) :
    TimeBaseAdvances 1 s (timeBase s) := by
  by_cases hwrap : s.presc = s.cfg.clkPerUs - 1
  · have hnext : s.presc + 1 = s.cfg.clkPerUs := by omega
    have hclk : 0 < s.cfg.clkPerUs := by omega
    exact {
      cfg_kept := timeBase_cfg s
      presc_counts := by rw [timeBase_presc, if_pos hwrap, hnext, Nat.mod_self]
      time_counts := by
        rw [timeBase_time, if_pos hwrap, hnext, Nat.div_self hclk]
        exact BitVec.toNat_add .. }
  · have hlt : s.presc + 1 < s.cfg.clkPerUs := by omega
    exact {
      cfg_kept := timeBase_cfg s
      presc_counts := by rw [timeBase_presc, if_neg hwrap, Nat.mod_eq_of_lt hlt]
      time_counts := by
        rw [timeBase_time, if_neg hwrap, Nat.div_eq_of_lt hlt, Nat.add_zero,
          Nat.mod_eq_of_lt s.time.isLt] }

/-- No tick operation touches the prescaler, the time counter or the script (44_timer.md R221, R222). -/
theorem tickStep_time_presc_inputs {s u : State} (htick : TickStep s u) :
    u.time = s.time ∧ u.presc = s.presc ∧ u.inputs = s.inputs := by
  cases htick with
  | noTick => simp
  | emit => simp [emitTick]
  | transition => simp [transitionTick]

/-- An edge without reset ends with the time base, which finds the prescaler and the time counter as they
were before the edge (44_timer.md R221, R222). -/
theorem step_ends_with_timeBase {s t : State} (hrst : s.input.rst = false) (hstep : step s = .next t) :
    ∃ w, t = nextCycle (timeBase w) ∧
      w.cfg = s.cfg ∧ w.time = s.time ∧ w.presc = s.presc ∧ w.inputs = s.inputs := by
  obtain ⟨v, ⟨hreset, -⟩ | ⟨-, u, hu, rfl⟩⟩ := step_cases hstep
  · simp [hrst] at hreset
  · have htick := tickStep_of_tickOperation hu
    have hcfg := tickStep_cfg htick
    obtain ⟨htime, hpresc, hinputs⟩ := tickStep_time_presc_inputs htick
    refine ⟨_, rfl, ?_⟩
    split <;> simp [hcfg, htime, hpresc, hinputs]

/-- An edge without reset counts one cycle on the time base, whatever else it does. -/
theorem timeBaseAdvances_step {s t : State} (hp : s.presc < s.cfg.clkPerUs)
    (hrst : s.input.rst = false) (hstep : step s = .next t) : TimeBaseAdvances 1 s t := by
  obtain ⟨w, rfl, hcfg, htime, hpresc, -⟩ := step_ends_with_timeBase hrst hstep
  obtain ⟨hc, hpr, hti⟩ := timeBaseAdvances_timeBase (s := w) (by rwa [hpresc, hcfg])
  rw [hcfg] at hc hpr hti
  rw [hpresc] at hpr hti
  rw [htime] at hti
  exact ⟨hc, hpr, hti⟩

/-- A script without reset asserts none in the coming cycle; past its end the inputs are idle. -/
theorem NoReset.input_rst {s : State} (h : NoReset s) : s.input.rst = false := by
  cases hscript : s.inputs with
  | nil => simp [State.input, hscript, HostInput.nop]
  | cons i is => simpa [State.input, hscript] using h i (by simp [hscript])

/-- A script without reset stays so. -/
theorem NoReset.of_step {s t : State} (h : NoReset s) (hstep : step s = .next t) : NoReset t := by
  obtain ⟨w, rfl, -, -, -, hinputs⟩ := step_ends_with_timeBase h.input_rst hstep
  intro i hi
  rw [nextCycle_inputs, timeBase_inputs, hinputs] at hi
  exact h i (List.mem_of_mem_tail hi)

/-- Edges without reset count on the time base, one cycle each. -/
theorem timeBaseAdvances_after (k : Nat) :
    ∀ s, NoReset s → s.presc < s.cfg.clkPerUs → ∃ t, After k s t ∧ TimeBaseAdvances k s t := by
  induction k with
  | zero => exact fun s _ hp => ⟨s, rfl, timeBaseAdvances_zero hp⟩
  | succ k ih =>
    intro s hnoReset hp
    obtain ⟨u, hstep⟩ := step_total s
    have hcount := timeBaseAdvances_step hp hnoReset.input_rst hstep
    obtain ⟨t, hafter, hrest⟩ := ih u (hnoReset.of_step hstep) hcount.presc_lt
    exact ⟨t, after_succ hstep hafter, Nat.add_comm 1 k ▸ hcount.trans hrest⟩

/-- Settles O51: each edge without reset advances the time base by one cycle, and advances add up. -/
theorem timeBaseCountsTheEdges : Obligations.TimeBaseCountsTheEdges := by
  unfold Obligations.TimeBaseCountsTheEdges
  intro s k hnoReset hp
  obtain ⟨t, hafter, hcount⟩ := timeBaseAdvances_after k s hnoReset hp
  exact ⟨t, hafter, hcount.presc_counts, hcount.time_counts⟩

end Sys2Proof.Machine

/-! ## The words the host reads, field by field, and what each read answers (45_host.md R251 to R264, R267) -/

namespace Sys2Proof.Machine

theorem segBit_eq_decide (g : Segment) : segBit g = decide (g = .chirp) := by cases g <;> rfl

theorem policyBit_eq_decide (p : Policy) : policyBit p = decide (p = .concatenated) := by cases p <;> rfl

@[simp] theorem toNat_bitWord (b : Bool) : (bitWord b).toNat = b.toNat := by cases b <;> rfl

@[simp] theorem getLsbD_bitWord (b : Bool) (i : Nat) : (bitWord b).getLsbD i = (decide (i = 0) && b) := by
  cases b <;> simp [bitWord, BitVec.getLsbD_one]

@[simp] theorem getElem_bitWord (b : Bool) {i : Nat} (hi : i < 32) :
    (bitWord b)[i] = (decide (i = 0) && b) := getLsbD_bitWord b i

/-- Two fields side by side: the upper one from place `k` on, the lower one below it. -/
theorem toNat_shiftLeft_or {hi lo : Word} {k : Nat} (hlo : lo.toNat < 2 ^ k)
    (hhi : hi.toNat * 2 ^ k < 2 ^ 32) : (hi <<< k ||| lo).toNat = hi.toNat * 2 ^ k + lo.toNat := by
  rw [BitVec.toNat_or, BitVec.toNat_shiftLeft, Nat.shiftLeft_eq, Nat.mod_eq_of_lt hhi, ← Nat.shiftLeft_eq,
    ← Nat.shiftLeft_add_eq_or_of_lt hlo]

theorem toNat_indexWord (s : State) : (indexWord s).toNat = s.idx.toNat :=
  BitVec.toNat_setWidth_of_le (by decide)

/-- `STATUS` has no bit above place 7 (30_encoding.md R92). -/
theorem statusWord_lt (s : State) : (statusWord s).toNat < 2 ^ 8 := by
  refine Nat.lt_pow_two_of_testBit _ fun i hi => ?_
  have hplaces : ∀ k, k < 8 → i - k ≠ 0 := fun k hk => by omega
  have h0 : i ≠ 0 := by omega
  rw [BitVec.testBit_toNat]
  simp [statusWord, hplaces, h0]

/-- The two fields of `LAST_WORD` in one number (30_encoding.md R94). -/
theorem toNat_lastWordWord (s : State) :
    (lastWordWord s).toNat = s.valid.toNat * 2 ^ 16 + s.lastWord.toNat := by
  have hword := s.lastWord.isLt
  have hvalid := s.valid.toNat_le
  have hw : (s.lastWord.setWidth 32).toNat = s.lastWord.toNat := BitVec.toNat_setWidth_of_le (by decide)
  have hv := toNat_bitWord s.valid
  rw [lastWordWord, toNat_shiftLeft_or (by omega) (by omega), hv, hw]

/-- The fields of `CFG0` in one number (30_encoding.md R95); the constraints of 00_scope.md R10 keep each in
its place. -/
theorem toNat_cfg0Word (c : Config) :
    (cfg0Word c).toNat =
      c.ctrlNibble.toNat * 2 ^ 16 + (c.sineBits * 2 ^ 8 + (policyBit c.policy).toNat) := by
  have hnibble := c.ctrlNibble.isLt
  have hsine := c.sineBits_le
  have hpolicy := (policyBit c.policy).toNat_le
  have hn : (c.ctrlNibble.setWidth 32).toNat = c.ctrlNibble.toNat := BitVec.toNat_setWidth_of_le (by decide)
  have hs : (BitVec.ofNat 32 c.sineBits).toNat = c.sineBits := Nat.mod_eq_of_lt (by omega)
  have hp := toNat_bitWord (policyBit c.policy)
  have hlow : (BitVec.ofNat 32 c.sineBits <<< 8 ||| bitWord (policyBit c.policy)).toNat =
      c.sineBits * 2 ^ 8 + (policyBit c.policy).toNat := by
    rw [toNat_shiftLeft_or (by omega) (by omega), hs, hp]
  rw [cfg0Word, BitVec.or_assoc, toNat_shiftLeft_or (by omega) (by omega), hlow, hn]

/-- `CFG_LEN_A` is the length of the region that SWOOP lies in: its own, or the whole buffer
(30_encoding.md R96). -/
theorem toNat_cfgLenAWord (c : Config) : (cfgLenAWord c).toNat = c.regionLen .swoop := by
  have hfit := c.regionLen_le .swoop
  cases hp : c.policy <;> simp only [cfgLenAWord, Params.regionLen, Params.segmentLen, hp] at hfit ⊢ <;>
    exact Nat.mod_eq_of_lt (by omega)

/-- `CFG_LEN_B` is the length of CHIRP's own region (30_encoding.md R96). -/
theorem toNat_cfgLenBWord {c : Config} (hp : c.policy = .segmented) :
    (cfgLenBWord c).toNat = c.regionLen .chirp := by
  have hfit := c.regionLen_le .chirp
  simp only [cfgLenBWord, Params.regionLen, Params.segmentLen, hp] at hfit ⊢
  exact Nat.mod_eq_of_lt (by omega)

theorem toNat_cfgPeriodWord (c : Config) : (cfgPeriodWord c).toNat = c.periodUs := by
  have hdelay := c.delay_le
  exact Nat.mod_eq_of_lt (by omega)

theorem toNat_cfgRestWord (c : Config) : (cfgRestWord c).toNat = c.restUs := by
  have hdelay := c.delay_le
  exact Nat.mod_eq_of_lt (by omega)

/-- Settles O23: each read puts its register's word on the port and nothing else, and a narrow register is
zero-extended. -/
theorem registerReadsAnswerTheRegister : Obligations.RegisterReadsAnswerTheRegister := by
  unfold Obligations.RegisterReadsAnswerTheRegister
  intro s
  exact ⟨⟨ctrlWord s, rfl, toNat_bitWord s.enable⟩, rfl, ⟨indexWord s, rfl, toNat_indexWord s⟩,
    rfl, rfl, rfl⟩

/-- Settles O24: the read answers `statusWord`, whose bits are read off place by place. -/
theorem statusReadAnswersEachBit : Obligations.StatusReadAnswersEachBit := by
  unfold Obligations.StatusReadAnswersEachBit
  intro s
  refine ⟨statusWord s, rfl, ?_, ?_, ?_, ?_, ?_, ?_, ?_, ?_, statusWord_lt s⟩ <;>
    simp [statusWord, probe, segBit_eq_decide, policyBit_eq_decide]

/-- Settles O25: the read answers `lastWordWord`, whose value gives each field by division. -/
theorem lastWordReadAnswersWordAndValid : Obligations.LastWordReadAnswersWordAndValid := by
  unfold Obligations.LastWordReadAnswersWordAndValid
  intro s
  have hvalue := toNat_lastWordWord s
  have hword := s.lastWord.isLt
  have hvalid := s.valid.toNat_le
  refine ⟨lastWordWord s, rfl, ?_, ?_, by omega⟩
  · apply BitVec.eq_of_toNat_eq
    rw [BitVec.toNat_setWidth]
    omega
  · rw [BitVec.getLsbD, Nat.testBit_eq_decide_div_mod_eq, hvalue]
    cases s.valid <;> simp <;> omega

/-- Every field of `CFG0` and every gap between them (30_encoding.md R95). -/
theorem cfg0Word_fields (c : Config) :
    (cfg0Word c).getLsbD 0 = decide (c.policy = .concatenated) ∧
    (cfg0Word c).extractLsb' 1 7 = 0 ∧ ((cfg0Word c).extractLsb' 8 5).toNat = c.sineBits ∧
    (cfg0Word c).extractLsb' 13 3 = 0 ∧ (cfg0Word c).extractLsb' 16 4 = c.ctrlNibble ∧
    (cfg0Word c).extractLsb' 20 12 = 0 := by
  have hvalue := toNat_cfg0Word c
  have hnibble := c.ctrlNibble.isLt
  have hsine := c.sineBits_le
  have hpolicy := (policyBit c.policy).toNat_le
  constructor
  · rw [← policyBit_eq_decide, BitVec.getLsbD, Nat.testBit_eq_decide_div_mod_eq, hvalue]
    cases policyBit c.policy <;> simp <;> omega
  · simp only [← BitVec.toNat_inj, BitVec.extractLsb'_toNat, Nat.shiftRight_eq_div_pow,
      BitVec.ofNat_eq_ofNat, BitVec.toNat_ofNat]
    omega

/-- Settles O26: each read answers its configuration word, and the admitted parameters fit their places. -/
theorem configurationReadsAnswerTheParameters : Obligations.ConfigurationReadsAnswerTheParameters := by
  unfold Obligations.ConfigurationReadsAnswerTheParameters
  intro s
  have hlenA := toNat_cfgLenAWord s.cfg
  refine ⟨⟨cfg0Word s.cfg, rfl, cfg0Word_fields s.cfg⟩, ⟨cfgLenAWord s.cfg, rfl, ?_, ?_⟩,
    ⟨cfgLenBWord s.cfg, rfl, ?_, ?_⟩, ⟨cfgPeriodWord s.cfg, rfl, toNat_cfgPeriodWord s.cfg⟩,
    ⟨cfgRestWord s.cfg, rfl, toNat_cfgRestWord s.cfg⟩⟩ <;> intro hp
  · simpa [Params.regionLen, Params.segmentLen, hp] using hlenA
  · simpa [Params.regionLen, Params.songLen, hp] using hlenA
  · simpa [Params.regionLen, Params.segmentLen, hp] using toNat_cfgLenBWord hp
  · simp [cfgLenBWord, hp]

/-- Settles O27: the reads of reserved words and the absent read put 0 on the port and nothing else. -/
theorem reservedAndAbsentReadsAnswerZero : Obligations.ReservedAndAbsentReadsAnswerZero := by
  unfold Obligations.ReservedAndAbsentReadsAnswerZero
  exact fun _ _ => ⟨rfl, rfl, rfl⟩

end Sys2Proof.Machine

/-! ## Writes without an effect: they answer the state as it was, and an edge with one is the edge without it
(45_host.md R265 to R267) -/

namespace Sys2Proof.Machine

/-- Settles O29: each ignored write, and the absent write, answers the state as it was. -/
theorem otherWritesHaveNoEffect : Obligations.OtherWritesHaveNoEffect := by
  unfold Obligations.OtherWritesHaveNoEffect
  exact fun _ _ _ => ⟨rfl, rfl, rfl, rfl, rfl⟩

/-- The state with another script (assumption 1). -/
def withScript (is : List HostInput) (s : State) : State := { s with inputs := is }

theorem andThen_withOperand {α : Type} (o : Except Fault α) (f : α → State) (g : State → State) :
    andThen (withOperand o f) (fun t => .next (g t)) = withOperand o fun v => g (f v) := by
  cases o <;> rfl

theorem writeCtrl_withScript (d : Word) (is : List HostInput) (s : State) :
    writeCtrl d (withScript is s) = withScript is (writeCtrl d s) := by
  unfold writeCtrl
  rw [show (withScript is s).enable = s.enable from rfl]
  repeat' split
  all_goals rfl

theorem writeCtrl_of_eq_enable {d : Word} {s : State} (h : d.getLsbD 0 = s.enable) : writeCtrl d s = s := by
  unfold writeCtrl
  rw [h]
  cases s.enable <;> rfl

/-- No operation reads the script or writes it. -/
theorem exec_withScript (op : Instr) (is : List HostInput) (s : State) :
    exec op (withScript is s) = andThen (exec op s) fun t => .next (withScript is t) := by
  cases op with
  | segEmit x => simp only [exec, execSegEmit, andThen_withOperand]; rfl
  | catEmit x => simp only [exec, execCatEmit, andThen_withOperand]; rfl
  | wrCtrl d => exact congrArg Host.Outcome.next (writeCtrl_withScript d is s)
  | _ => rfl

theorem applyFire_withScript {is : List HostInput} {s : State}
    (hdis : disabling (withScript is s) = disabling s) :
    applyFire (withScript is s) = withScript is (applyFire s) := by
  have hfires : fires (withScript is s) = fires s := by
    unfold fires
    rw [hdis]
    rfl
  unfold applyFire
  rw [hfires]
  split <;> rfl

theorem frameProgress_withScript (is : List HostInput) (s : State) :
    frameProgress (withScript is s) = withScript is (frameProgress s) := by
  unfold frameProgress
  rw [show frameEnds (withScript is s) = frameEnds s from rfl, show (withScript is s).busy = s.busy from rfl]
  split
  · rfl
  · split <;> rfl

theorem timeBase_withScript (is : List HostInput) (s : State) :
    timeBase (withScript is s) = withScript is (timeBase s) := by
  unfold timeBase
  rw [show (withScript is s).presc = s.presc from rfl, show (withScript is s).cfg = s.cfg from rfl]
  split <;> rfl

/-- What an edge does up to its tick operation takes from the script only whether the edge disables. -/
theorem tickOperation_withScript {is : List HostInput} {s u : State}
    (hdis : disabling (withScript is s) = disabling s) (hu : tickOperation s (beforeTick s) = .next u) :
    tickOperation (withScript is s) (beforeTick (withScript is s)) = .next (withScript is u) := by
  have hbefore : beforeTick (withScript is s) = withScript is (beforeTick s) := by
    unfold beforeTick
    rw [applyFire_withScript hdis, frameProgress_withScript]
    rfl
  have hstart : startsTick (withScript is s) = startsTick s := by
    unfold startsTick
    rw [hdis]
    rfl
  have hselector : tickSelector (withScript is s) = tickSelector s := rfl
  unfold tickOperation at hu ⊢
  rw [hbefore, hstart, hselector]
  split at hu
  case isTrue h => rw [if_pos h, exec_withScript, hu, andThen_next]
  case isFalse h => rw [if_neg h, Host.Outcome.next.inj hu]

theorem tickStep_enable {s u : State} (htick : TickStep s u) : u.enable = s.enable := by
  cases htick with
  | noTick => simp
  | emit => simp [emitTick]
  | transition => simp [transitionTick]

/-- The inputs carry no write, or one that neither enables nor disables (45_host.md R265 to R267). -/
def IneffectiveWrite (i : HostInput) (s : State) : Prop :=
  writesCtrl i = true → i.wdata.getLsbD 0 = s.enable

theorem IneffectiveWrite.disabling {s : State} (h : IneffectiveWrite s.input s) : disabling s = false := by
  unfold Machine.disabling
  cases hw : writesCtrl s.input
  · rfl
  · rw [h hw]
    cases s.enable <;> rfl

theorem IneffectiveWrite.exec_writeCommand {i : HostInput} {s : State} (h : IneffectiveWrite i s) :
    exec i.writeCommand s = .next s := by
  rw [writeCommand_next]
  split
  case isTrue hw => rw [writeCtrl_of_eq_enable (h hw)]
  case isFalse => rfl

/-- An edge with an ineffective write is its read, then the reset, or the tick operation and the time base:
the write is not in it. -/
theorem step_withScript_of_ineffectiveWrite {i : HostInput} {is : List HostInput} {s u : State} {v : Word}
    (hdis : disabling s = false) (hwrite : IneffectiveWrite i s)
    (hread : exec i.readCommand s = .next (putRdata v s))
    (hu : tickOperation (putRdata v s) (beforeTick (putRdata v s)) = .next u) :
    step (withScript (i :: is) s) =
      .next (withScript is (if i.rst then applyReset (putRdata v s) else timeBase u)) := by
  have hdis' : disabling (withScript (i :: is) (putRdata v s)) = disabling (putRdata v s) :=
    (IneffectiveWrite.disabling (s := withScript (i :: is) s) hwrite).trans hdis.symm
  have henable : u.enable = s.enable :=
    (tickStep_enable (tickStep_of_tickOperation hu)).trans (putRdata_enable v s)
  have hwrite' : IneffectiveWrite i (withScript (i :: is) u) := fun hw => (hwrite hw).trans henable.symm
  have hinput : ∀ t, (withScript (i :: is) t).input = i := fun _ => rfl
  unfold step edge
  rw [hinput, exec_withScript, hread, andThen_next, andThen_next, hinput]
  cases i.rst
  · simp only [Bool.false_eq_true, if_false]
    unfold runningEdge
    rw [tickOperation_withScript hdis' hu, andThen_next, hinput, hwrite'.exec_writeCommand, andThen_next,
      timeBase_withScript]
    rfl
  · rfl

/-- Settles O40: the edge with the write and the edge without it are the same read, reset, tick operation and
time base. -/
theorem ineffectiveWritesAreAsNone : Obligations.IneffectiveWritesAreAsNone := by
  unfold Obligations.IneffectiveWritesAreAsNone
  intro s i is hinputs hcases
  have hinput : s.input = i := by rw [State.input, hinputs]; rfl
  have hscript : withScript (i :: is) s = s := by rw [← hinputs]; rfl
  have hwrite : IneffectiveWrite i s := by
    intro hw
    obtain haddr | hsame := hcases
    · rw [writesCtrl, Bool.and_eq_true, beq_iff_eq] at hw
      exact absurd hw.2 haddr
    · exact hsame
  have hsilent : IneffectiveWrite { i with we := false } s := fun hw => by simp [writesCtrl] at hw
  have hdis : disabling s = false := IneffectiveWrite.disabling (hinput.symm ▸ hwrite)
  obtain ⟨v, hread⟩ := readCommand_next i s
  obtain ⟨u, hu, -⟩ := tickOperation_next (putRdata v s)
  calc step (withScript ({ i with we := false } :: is) s)
      = .next (withScript is (if i.rst then applyReset (putRdata v s) else timeBase u)) :=
        step_withScript_of_ineffectiveWrite hdis hsilent hread hu
    _ = step (withScript (i :: is) s) := (step_withScript_of_ineffectiveWrite hdis hwrite hread hu).symm
    _ = step s := by rw [hscript]

end Sys2Proof.Machine

/-! ## The step is the next-state function of 46_cycle_step.md R280, each register by its events -/

namespace Sys2Proof

@[simp] theorem hostEnable_hostWord : ∀ (en : Bool) (a : BitVec 4), hostEnable (hostWord en a) = en := by decide

@[simp] theorem hostAddr_hostWord : ∀ (en : Bool) (a : BitVec 4), hostAddr (hostWord en a) = a := by decide

@[simp] theorem hostWord_hostEnable_hostAddr : ∀ b : BitVec 5, hostWord (hostEnable b) (hostAddr b) = b := by
  decide

end Sys2Proof

namespace Sys2Proof.Machine

/-- Every edge's read command puts on the port what `REG` answers for the address (45_host.md R250). -/
theorem exec_readCommand (s : State) :
    exec s.input.readCommand s = .next (putRdata (portRdata s) s) := by
  unfold HostInput.readCommand HostInput.rdWord portRdata
  generalize s.input.re = re, s.input.addr = a
  unfold decodeRd
  rw [hostEnable_hostWord, hostAddr_hostWord]
  cases re
  · rfl
  · unfold hostReg
    generalize a.toNat = n
    match n with
    | 0 | 1 | 2 | 3 | 4 | 5 | 6 | 7 | 8 | 9 | 10 | 11 | 12 | 13 | _ + 14 => rfl

/-- The registers after an edge's write command, when `s` is the state before the edge and `u` the one that
the write finds: the enabling write, the disabling write, or no effect (45_host.md R265). -/
def applyWrite (s u : State) : State :=
  if enabling s then enableBlock u else if disabling s then disableBlock u else u

/-- `applyWrite` is the model's write command, on a state whose `ENABLE` is that before the edge. -/
theorem applyWrite_eq {s u : State} (henable : u.enable = s.enable) :
    (if writesCtrl s.input then writeCtrl s.input.wdata u else u) = applyWrite s u := by
  unfold applyWrite enabling disabling writeCtrl
  rw [henable]
  cases writesCtrl s.input <;> cases s.input.wdata.getLsbD 0 <;> cases s.enable <;> rfl

theorem enabling_iff {s : State} : enabling s = true ↔
    (s.input.we = true ∧ s.input.addr = 0) ∧ s.input.wdata.getLsbD 0 = true ∧ s.enable = false := by
  simp [enabling, writesCtrl, and_assoc]

theorem disabling_iff {s : State} : disabling s = true ↔
    (s.input.we = true ∧ s.input.addr = 0) ∧ s.input.wdata.getLsbD 0 = false ∧ s.enable = true := by
  simp [disabling, writesCtrl, and_assoc]

theorem fires_iff {s : State} :
    fires s = true ↔ s.armed = true ∧ s.time = s.alarm ∧ ¬disabling s = true := by
  simp [fires, and_assoc]

theorem startsTick_iff {s : State} : startsTick s = true ↔
    s.enable = true ∧ s.pending = true ∧ s.busy = false ∧ ¬disabling s = true := by
  simp [startsTick, and_assoc]

/-- The two parts of a frame's count are read off the count (10_state.md R35). -/
theorem xcnt_eq_of_frameCycle_eq {s t : State} (h : frameCycle s = frameCycle t) :
    s.xcnt = t.xcnt ∧ s.xcntHigh = t.xcntHigh := by
  have hs := s.xcnt.isLt
  have ht := t.xcnt.isLt
  unfold frameCycle at h
  exact ⟨BitVec.eq_of_toNat_eq (by omega), by omega⟩

/-- Two states are equal when their fields are, the frame's count as one number. -/
theorem State.ext_frameCycle {s t : State} (cfg : s.cfg = t.cfg) (phase : s.phase = t.phase)
    (seg : s.seg = t.seg) (idx : s.idx = t.idx) (time : s.time = t.time) (presc : s.presc = t.presc)
    (alarm : s.alarm = t.alarm) (armed : s.armed = t.armed) (pending : s.pending = t.pending)
    (enable : s.enable = t.enable) (busy : s.busy = t.busy) (count : frameCycle s = frameCycle t)
    (lastWord : s.lastWord = t.lastWord) (valid : s.valid = t.valid)
    (probePulse : s.probePulse = t.probePulse) (missed : s.missed = t.missed)
    (hostRdata : s.hostRdata = t.hostRdata) (inputs : s.inputs = t.inputs) : s = t := by
  obtain ⟨xcnt, xcntHigh⟩ := xcnt_eq_of_frameCycle_eq count
  cases s
  cases t
  simp_all

/-! ### The next value of each register at an edge without reset, by the events of the edge -/

@[simp] theorem r280Run_cfg (s : State) : (r280Run s).cfg = s.cfg := rfl

@[simp] theorem r280Run_hostRdata (s : State) : (r280Run s).hostRdata = portRdata s := rfl

@[simp] theorem r280Run_inputs (s : State) : (r280Run s).inputs = s.inputs.tail := rfl

@[simp] theorem r280Run_time (s : State) :
    (r280Run s).time = if s.presc = s.cfg.clkPerUs - 1 then s.time + 1 else s.time := by
  have hone : BitVec.ofNat 32 ((s.time.toNat + 1) % 2 ^ 32) = s.time + 1 :=
    BitVec.eq_of_toNat_eq (by simp)
  rw [← hone]
  rfl

@[simp] theorem r280Run_presc (s : State) :
    (r280Run s).presc = if s.presc = s.cfg.clkPerUs - 1 then 0 else s.presc + 1 := rfl

@[simp] theorem r280Run_enable (s : State) :
    (r280Run s).enable = if disabling s then false else if enabling s then true else s.enable := by
  simp only [r280Run, enabling_iff, disabling_iff]

@[simp] theorem r280Run_armed (s : State) :
    (r280Run s).armed =
      if disabling s then false else if enabling s ∨ startsTick s then true
      else if fires s then false else s.armed := by
  simp only [r280Run, startsTick_iff, fires_iff, enabling_iff, disabling_iff]

@[simp] theorem r280Run_pending (s : State) :
    (r280Run s).pending =
      if disabling s ∨ enabling s ∨ startsTick s then false else if fires s then true else s.pending := by
  simp only [r280Run, startsTick_iff, fires_iff, enabling_iff, disabling_iff]

@[simp] theorem r280Run_alarm (s : State) :
    (r280Run s).alarm =
      if enabling s then deadline s.time s.cfg.periodUs
      else if startsTick s then deadline s.time (r280Delay s) else s.alarm := by
  have hmod : ∀ n, BitVec.ofNat 32 (n % 2 ^ 32) = BitVec.ofNat 32 n := fun n =>
    BitVec.eq_of_toNat_eq (by simp)
  simp only [r280Run, startsTick_iff, enabling_iff, disabling_iff, hmod, deadline]

@[simp] theorem r280Run_missed (s : State) :
    (r280Run s).missed =
      if startsTick s ∧ s.time ≠ s.alarm then saturatingSucc s.missed else s.missed := by
  simp only [r280Run, startsTick_iff, disabling_iff, saturatingSucc]

@[simp] theorem r280Run_probePulse (s : State) :
    (r280Run s).probePulse = decide (startsTick s = true ∧ ¬s.idx.toNat < s.len) := by
  simp only [r280Run, startsTick_iff, disabling_iff]

@[simp] theorem r280Run_idx (s : State) :
    (r280Run s).idx =
      if startsTick s ∧ s.idx.toNat < s.len then s.idx + 1
      else if startsTick s ∧ ¬s.idx.toNat < s.len then 0 else s.idx := by
  have hone : BitVec.ofNat 24 (s.idx.toNat + 1) = s.idx + 1 := BitVec.eq_of_toNat_eq (by simp)
  simp only [r280Run, startsTick_iff, disabling_iff, hone]

@[simp] theorem r280Run_seg (s : State) :
    (r280Run s).seg = if startsTick s ∧ ¬s.idx.toNat < s.len then nextSeg s.cfg s.seg else s.seg := by
  have hnext : nextSeg s.cfg s.seg =
      if s.cfg.policy = .segmented then (if s.seg = .swoop then .chirp else .swoop) else s.seg := by
    unfold nextSeg
    cases s.cfg.policy <;> cases s.seg <;> rfl
  rw [hnext]
  simp only [r280Run, startsTick_iff, disabling_iff, ite_and]

@[simp] theorem r280Run_phase (s : State) :
    (r280Run s).phase =
      if (startsTick s ∧ s.idx.toNat < s.len) ∧ s.cfg.policy = .segmented then r280Phase s else s.phase := by
  simp only [r280Run, startsTick_iff, disabling_iff]

@[simp] theorem r280Run_busy (s : State) :
    (r280Run s).busy = if startsTick s ∧ s.idx.toNat < s.len then true else s.busy && !frameEnds s := by
  have hlast : (s.busy && !frameEnds s) = if frameEnds s then false else s.busy := by
    cases s.busy <;> cases frameEnds s <;> rfl
  simp only [hlast, r280Run, startsTick_iff, disabling_iff, frameEnds_eq_true_iff]

@[simp] theorem r280Run_lastWord (s : State) :
    (r280Run s).lastWord =
      if startsTick s ∧ s.idx.toNat < s.len then
        BitVec.ofNat 16 (s.cfg.ctrlNibble.toNat * 2 ^ 12 + r280Mag s)
      else s.lastWord := by
  simp only [r280Run, startsTick_iff, disabling_iff]

@[simp] theorem r280Run_valid (s : State) :
    (r280Run s).valid = if startsTick s ∧ s.idx.toNat < s.len then true else s.valid := by
  simp only [r280Run, startsTick_iff, disabling_iff]

@[simp] theorem r280Run_frameCycle (s : State) :
    frameCycle (r280Run s) =
      if (startsTick s ∧ s.idx.toNat < s.len) ∨ frameEnds s then 0
      else if s.busy then frameCycle s + 1 else frameCycle s := by
  have hparts : ∀ n, n / 2 ^ 24 * 2 ^ 24 + (BitVec.ofNat 24 (n % 2 ^ 24)).toNat = n := fun n => by
    rw [BitVec.toNat_ofNat]; omega
  simp only [startsTick_iff, disabling_iff, frameEnds_eq_true_iff]
  exact hparts _

/-- The mask keeps 12 bits of the magnitude (41_phase_sine.md R145). -/
theorem mag_rawSample_lt (raw : Sample) (e : EnvCode) : mag (rawSample raw) e < 2 ^ 12 := by
  have hval := mag_rawSample raw e
  omega

/-- The increment of R280 is the table's entry, added to the phase (41_phase_sine.md R140). -/
theorem r280Phase_eq_phaseAdd {s : State} {tb : SegmentTables} {inc : Word} (hi : s.cfg.images = .segmented tb)
    (hinc : (tb.inc s.seg)[s.idx.toNat]? = some inc) : r280Phase s = phaseAdd s.phase inc :=
  BitVec.eq_of_toNat_eq (by simp [r280Phase, incAt, hi, hinc, phaseAdd])

/-- The magnitude of R280 is that of the entries that the operation reads (41_phase_sine.md R143). -/
theorem r280Mag_eq_mag {s : State} {tb : SegmentTables} {inc : Word} {e : EnvCode} {raw : Sample}
    (hi : s.cfg.images = .segmented tb) (hinc : (tb.inc s.seg)[s.idx.toNat]? = some inc)
    (henv : (tb.env s.seg)[s.idx.toNat]? = some e)
    (hsine : tb.sine[sineIndex s.cfg.shift (phaseAdd s.phase inc)]? = some raw) :
    r280Mag s = mag (rawSample raw) e := by
  have hp := s.cfg.policy_segmented_iff.2 ⟨tb, hi⟩
  have hval := mag_rawSample raw e
  rw [sineIndex_eq_div] at hsine
  simp only [r280Mag, Params.shift, hp, r280Phase_eq_phaseAdd hi hinc, sineAt, envAt, hi, hsine, henv,
    Option.getD_some]
  omega

/-- The word that R280 writes for a 12-bit magnitude (43_output.md R190). -/
theorem dacWord_eq_ofNat (nibble : BitVec 4) {m : Nat} (hm : m < 2 ^ 12) :
    dacWord nibble m = BitVec.ofNat 16 (nibble.toNat * 2 ^ 12 + m) := by
  have hword := toNat_dacWord nibble m
  rw [Nat.mod_eq_of_lt hm] at hword
  rw [← hword, BitVec.ofNat_toNat, BitVec.setWidth_eq]

/-- The phase and the word of an emitting tick are those of R280 (46_cycle_step.md). -/
theorem EmitSample.eq_r280 {s : State} {ph : Word} {w : DacWord} (h : EmitSample s ph w)
    (hlt : s.idx.toNat < s.len) :
    ph = (if s.cfg.policy = .segmented then r280Phase s else s.phase) ∧
    w = BitVec.ofNat 16 (s.cfg.ctrlNibble.toNat * 2 ^ 12 + r280Mag s) := by
  cases hp : s.cfg.policy with
  | segmented =>
    obtain ⟨tb, hi⟩ := s.cfg.policy_segmented_iff.1 hp
    have hlen : s.idx.toNat < s.cfg.segmentLen s.seg := by
      simpa [State.len, Params.regionLen, hp] using hlt
    obtain ⟨inc, e, raw, hinc, henv, hsine⟩ :=
      segSample_exists s.cfg tb s.seg s.idx.toNat s.phase hi hlen
    obtain ⟨rfl, rfl⟩ := h.eq_of_entries hi hinc henv hsine
    rw [if_pos rfl, r280Phase_eq_phaseAdd hi hinc, r280Mag_eq_mag hi hinc henv hsine]
    exact ⟨rfl, dacWord_eq_ofNat _ (mag_rawSample_lt raw e)⟩
  | concatenated =>
    obtain ⟨pcm, hi⟩ := s.cfg.policy_concatenated_iff.1 hp
    have hlen : s.idx.toNat < pcm.length := by
      simpa [s.cfg.pcm_length pcm hi, State.len, Params.regionLen, hp] using hlt
    obtain ⟨rfl, rfl⟩ := h.eq_of_entry hi (List.getElem?_eq_getElem hlen)
    have hmag : r280Mag s = (pcm[s.idx.toNat]).toNat := by
      simp [r280Mag, hp, pcmAt, hi, hlen]
    rw [hmag]
    exact ⟨by simp, dacWord_eq_ofNat _ (pcm[s.idx.toNat]).isLt⟩

/-! ### The end of an edge: its tick operation, its write and the time base -/

/-- An edge that starts a tick neither enables nor disables, and no frame is in progress (46_cycle_step.md R282). -/
theorem startsTick_excludes {s : State} (h : startsTick s = true) :
    enabling s = false ∧ disabling s = false ∧ s.busy = false := by
  obtain ⟨henable, -, hbusy, hdis⟩ := startsTick_iff.1 h
  exact ⟨by simp [enabling, henable], by simpa using hdis, hbusy⟩

/-- The three things an edge's write can do; enabling and disabling exclude each other. -/
theorem applyWrite_cases (s u : State) :
    (enabling s = false ∧ disabling s = false ∧ applyWrite s u = u) ∨
    (enabling s = true ∧ disabling s = false ∧ applyWrite s u = enableBlock u) ∨
    (enabling s = false ∧ disabling s = true ∧ applyWrite s u = disableBlock u) := by
  unfold applyWrite enabling disabling
  cases writesCtrl s.input <;> cases s.input.wdata.getLsbD 0 <;> cases s.enable <;> simp

/-- An edge that starts a tick carries no effective write. -/
theorem applyWrite_of_startsTick {s : State} (h : startsTick s = true) (u : State) : applyWrite s u = u := by
  obtain ⟨hen, hdis, -⟩ := startsTick_excludes h
  simp [applyWrite, hen, hdis]

@[simp] theorem nextCycle_frameCycle (s : State) : frameCycle (nextCycle s) = frameCycle s := rfl
@[simp] theorem timeBase_frameCycle (s : State) : frameCycle (timeBase s) = frameCycle s :=
  frameCycle_congr (by simp) (by simp)
@[simp] theorem enableBlock_frameCycle (s : State) : frameCycle (enableBlock s) = frameCycle s := rfl
@[simp] theorem disableBlock_frameCycle (s : State) : frameCycle (disableBlock s) = frameCycle s := rfl
@[simp] theorem transitionTick_frameCycle (s : State) : frameCycle (transitionTick s) = frameCycle s := rfl
@[simp] theorem emitTick_frameCycle (ph : Word) (w : DacWord) (s : State) :
    frameCycle (emitTick ph w s) = 0 := emitFrame_frameCycle w _

@[simp] theorem beforeTick_isLate (s : State) : isLate (beforeTick s) = isLate s := by simp [isLate]
@[simp] theorem beforeTick_r280Delay (s : State) : r280Delay (beforeTick s) = r280Delay s := by
  simp [r280Delay]

theorem r280Delay_of_lt {s : State} (hlt : s.idx.toNat < s.len) : r280Delay s = s.cfg.periodUs :=
  if_pos hlt

/-- An edge without reset ends in the state of R280, whatever its tick operation was. -/
theorem endOfEdge_eq_r280Run {s u : State} (hport : s.hostRdata = portRdata s) (htick : TickStep s u) :
    nextCycle (timeBase (applyWrite s u)) = r280Run s := by
  cases htick with
  | noTick hstart =>
    obtain ⟨hen, hdis, hw⟩ | ⟨hen, hdis, hw⟩ | ⟨hen, hdis, hw⟩ := applyWrite_cases s (beforeTick s) <;>
    · rw [hw]
      apply State.ext_frameCycle <;> simp [hstart, hen, hdis, hport]
  | emit ph w hstart hlt hsample =>
    obtain ⟨hen, hdis, -⟩ := startsTick_excludes hstart
    obtain ⟨rfl, rfl⟩ := hsample.eq_r280 hlt
    rw [applyWrite_of_startsTick hstart]
    apply State.ext_frameCycle <;>
      simp [hstart, hen, hdis, hport, hlt, emitTick, r280Delay_of_lt hlt, isLate]
  | transition hstart hend =>
    obtain ⟨hen, hdis, -⟩ := startsTick_excludes hstart
    have hnlt := Nat.not_lt.2 hend
    rw [applyWrite_of_startsTick hstart]
    apply State.ext_frameCycle
    case count => simp [hstart, hnlt]
    all_goals simp [hstart, hen, hdis, hport, hnlt, transitionTick, isLate]

/-- Settles O31: after the read of the cycle, an edge is the reset or an edge that ends in `r280Run`. -/
theorem stepIsTheNextStateFunction : Obligations.StepIsTheNextStateFunction := by
  unfold Obligations.StepIsTheNextStateFunction
  intro s
  unfold step edge r280
  rw [exec_readCommand, andThen_next, putRdata_input]
  cases s.input.rst
  · obtain ⟨u, hu, htick⟩ := tickOperation_next (putRdata (portRdata s) s)
    have hend : nextCycle (timeBase (applyWrite (putRdata (portRdata s) s) u)) = r280Run s :=
      endOfEdge_eq_r280Run rfl htick
    rw [if_neg Bool.false_ne_true, if_neg Bool.false_ne_true, ← hend, ← applyWrite_eq (tickStep_enable htick),
      runningEdge, hu, andThen_next, writeCommand_next, andThen_next]
  · rfl

/-- Each step from `s` leads to `r280 s`. -/
theorem step_eq_next_iff {s t : State} : step s = .next t ↔ r280 s = t := by
  rw [stepIsTheNextStateFunction s, Host.Outcome.next.injEq]

theorem r280_of_not_rst {s : State} (h : s.input.rst = false) : r280 s = r280Run s := by
  simp [r280, h]

theorem step_eq_next_iff_of_not_rst {s t : State} (h : s.input.rst = false) :
    step s = .next t ↔ r280Run s = t := by
  rw [step_eq_next_iff, r280_of_not_rst h]

end Sys2Proof.Machine

/-! ## The host commands: words by their enable bit and address, and the operation of each row
(30_encoding.md R87 to R89) -/

namespace Sys2Proof

/-- The address field of a host command word is its low four bits (30_encoding.md R87, R88). -/
theorem hostAddr_eq_setWidth : ∀ b : BitVec 5, hostAddr b = b.setWidth 4 := by decide

theorem decodeWr_wrNone {b : BitVec 5} (hen : hostEnable b = false) (d : Word) :
    decodeWr b d = .wrNone (hostAddr b) d := by
  simp [decodeWr, hen]

theorem decodeWr_wrCtrl {b : BitVec 5} (hen : hostEnable b = true) (ha : (hostAddr b).toNat = 0) (d : Word) :
    decodeWr b d = .wrCtrl d := by
  simp [decodeWr, hen, ha]

theorem decodeWr_wrIgn1 {b : BitVec 5} (hen : hostEnable b = true) (ha : (hostAddr b).toNat = 1) (d : Word) :
    decodeWr b d = .wrIgn1 d := by
  simp [decodeWr, hen, ha]

theorem decodeWr_wrIgn23 {b : BitVec 5} (hen : hostEnable b = true)
    (ha : 2 ≤ (hostAddr b).toNat ∧ (hostAddr b).toNat ≤ 3) (d : Word) :
    decodeWr b d = .wrIgn23 (hostAddr b) d := by
  obtain h | h : (hostAddr b).toNat = 2 ∨ (hostAddr b).toNat = 3 := by omega
  all_goals simp [decodeWr, hen, h]

theorem decodeWr_wrIgn47 {b : BitVec 5} (hen : hostEnable b = true)
    (ha : 4 ≤ (hostAddr b).toNat ∧ (hostAddr b).toNat ≤ 7) (d : Word) :
    decodeWr b d = .wrIgn47 (hostAddr b) d := by
  obtain h | h | h | h : (hostAddr b).toNat = 4 ∨ (hostAddr b).toNat = 5 ∨ (hostAddr b).toNat = 6 ∨
    (hostAddr b).toNat = 7 := by omega
  all_goals simp [decodeWr, hen, h]

theorem decodeWr_wrIgn8F {b : BitVec 5} (hen : hostEnable b = true) (ha : 8 ≤ (hostAddr b).toNat) (d : Word) :
    decodeWr b d = .wrIgn8F (hostAddr b) d := by
  obtain ⟨n, hn⟩ := Nat.exists_eq_add_of_le' ha
  simp [decodeWr, hen, hn]

/-- The write rows of R88 and R89: a mask and match test says which enable bit and addresses a word has. -/
theorem writeRow_bits : ∀ b : BitVec 5,
    (b &&& 0x10 = 0x00 → hostEnable b = false) ∧
    (b &&& 0x1F = 0x10 → hostEnable b = true ∧ (hostAddr b).toNat = 0) ∧
    (b &&& 0x1F = 0x11 → hostEnable b = true ∧ (hostAddr b).toNat = 1) ∧
    (b &&& 0x1E = 0x12 → hostEnable b = true ∧ 2 ≤ (hostAddr b).toNat ∧ (hostAddr b).toNat ≤ 3) ∧
    (b &&& 0x1C = 0x14 → hostEnable b = true ∧ 4 ≤ (hostAddr b).toNat ∧ (hostAddr b).toNat ≤ 7) ∧
    (b &&& 0x18 = 0x18 → hostEnable b = true ∧ 8 ≤ (hostAddr b).toNat) := by decide

/-- The read rows of R87 and R89 that cover several words. -/
theorem readRow_ranges : ∀ b : BitVec 5,
    (b &&& 0x10 = 0x00 → decodeRd b = .rdNone (b.setWidth 4)) ∧
    (b &&& 0x1E = 0x1E → decodeRd b = .rdRsvdEF (b.setWidth 4)) := by decide

/-- The full mask `0x1F` tests the whole word. -/
theorem decodeRd_of_full_mask {b m : BitVec 5} (h : b &&& 0x1F = m) : decodeRd b = decodeRd m :=
  congrArg decodeRd ((BitVec.and_allOnes (x := b)).symm.trans h)

/-- Settles O3: the match and mask of a row fix the enable bit and the address, or its range, and those fix
the operation. -/
theorem hostCommandsDecodeByMatchAndMask : Obligations.HostCommandsDecodeByMatchAndMask := by
  unfold Obligations.HostCommandsDecodeByMatchAndMask
  intro b d
  obtain ⟨hnone, hctrl, hign1, hign23, hign47, hign8F⟩ := writeRow_bits b
  obtain ⟨hrdNone, hrdRsvdEF⟩ := readRow_ranges b
  rw [← hostAddr_eq_setWidth] at *
  refine ⟨fun h => ⟨hrdNone h, decodeWr_wrNone (hnone h) d⟩,
    fun h => ⟨decodeRd_of_full_mask h, decodeWr_wrCtrl (hctrl h).1 (hctrl h).2 d⟩,
    fun h => ⟨decodeRd_of_full_mask h, decodeWr_wrIgn1 (hign1 h).1 (hign1 h).2 d⟩,
    ?_, ?_, ?_, ?_, ?_, ?_, ?_, ?_, ?_, ?_, ?_, ?_,
    hrdRsvdEF, fun h => decodeWr_wrIgn23 (hign23 h).1 (hign23 h).2 d,
    fun h => decodeWr_wrIgn47 (hign47 h).1 (hign47 h).2 d,
    fun h => decodeWr_wrIgn8F (hign8F h).1 (hign8F h).2 d⟩
  all_goals exact decodeRd_of_full_mask

/-- Settles O1: each word is one literal selector or command. -/
theorem specWordsDecode : Obligations.SpecWordsDecode := by
  unfold Obligations.SpecWordsDecode
  decide

/-- Settles O4: a row that covers several addresses encodes its operand as the address field, and a row of one
word is that word. -/
theorem decodeUndoesEncode : Obligations.DecodeUndoesEncode := by
  unfold Obligations.DecodeUndoesEncode
  intro i hwf
  cases i with
  | segEmit x => cases x <;> rfl
  | catEmit x => cases x <;> rfl
  | catWrapRest x => cases x <;> rfl
  | rdRsvdEF a => revert a; decide
  | rdNone a => revert a; decide
  | wrIgn23 a d =>
    have ha : 2 ≤ a.toNat ∧ a.toNat ≤ 3 := of_decide_eq_true hwf
    simpa [decode, encode] using decodeWr_wrIgn23 (hostEnable_hostWord true a) (by simpa using ha) d
  | wrIgn47 a d =>
    have ha : 4 ≤ a.toNat ∧ a.toNat ≤ 7 := of_decide_eq_true hwf
    simpa [decode, encode] using decodeWr_wrIgn47 (hostEnable_hostWord true a) (by simpa using ha) d
  | wrIgn8F a d =>
    have ha : 8 ≤ a.toNat := of_decide_eq_true hwf
    simpa [decode, encode] using decodeWr_wrIgn8F (hostEnable_hostWord true a) (by simpa using ha) d
  | wrNone a d => simpa [decode, encode] using decodeWr_wrNone (hostEnable_hostWord false a) d
  | _ => rfl

/-- A write word's row: the operation and its well-formedness, for each enable bit and address. -/
theorem encode_decodeWr (b : BitVec 5) (d : Word) :
    (decodeWr b d).wf = true ∧ encode (decodeWr b d) = .hostWr b d := by
  have hb := hostWord_hostEnable_hostAddr b
  cases hen : hostEnable b with
  | false => 
    rw [hen] at hb
    rw [decodeWr_wrNone hen]
    exact ⟨rfl, congrArg (RawWord.hostWr · d) hb⟩
  | true =>
    rw [hen] at hb
    obtain h | h | h | h | h : (hostAddr b).toNat = 0 ∨ (hostAddr b).toNat = 1 ∨
      (2 ≤ (hostAddr b).toNat ∧ (hostAddr b).toNat ≤ 3) ∨
      (4 ≤ (hostAddr b).toNat ∧ (hostAddr b).toNat ≤ 7) ∨ 8 ≤ (hostAddr b).toNat := by omega
    · have ha : hostAddr b = 0 := BitVec.eq_of_toNat_eq h
      rw [decodeWr_wrCtrl hen h, ← hb, ha]
      exact ⟨rfl, rfl⟩
    · have ha : hostAddr b = 1 := BitVec.eq_of_toNat_eq h
      rw [decodeWr_wrIgn1 hen h, ← hb, ha]
      exact ⟨rfl, rfl⟩
    · rw [decodeWr_wrIgn23 hen h]
      exact ⟨decide_eq_true h, congrArg (RawWord.hostWr · d) hb⟩
    · rw [decodeWr_wrIgn47 hen h]
      exact ⟨decide_eq_true h, congrArg (RawWord.hostWr · d) hb⟩
    · rw [decodeWr_wrIgn8F hen h]
      exact ⟨decide_eq_true h, congrArg (RawWord.hostWr · d) hb⟩

/-- Settles O5: a selector or read word has finitely many values, and a write word's row is fixed by its enable
bit and address, whatever the data. -/
theorem encodeUndoesDecode : Obligations.EncodeUndoesDecode := by
  unfold Obligations.EncodeUndoesDecode
  intro r
  cases r with
  | ticksel b => revert b; decide
  | hostRd b => revert b; decide
  | hostWr b d => exact encode_decodeWr b d

theorem encode_of_readAddr {rd : Instr} {a : BitVec 4} (h : rd.readAddr = some a) :
    ∃ en, encode rd = .hostRd (hostWord en a) := by
  cases rd with
  | rdNone b => cases h; exact ⟨false, rfl⟩
  | _ => cases h <;> exact ⟨true, rfl⟩

theorem encode_of_writeAddr {wr : Instr} {a : BitVec 4} (h : wr.writeAddr = some a) :
    ∃ en d, encode wr = .hostWr (hostWord en a) d := by
  cases wr with
  | wrNone b d => cases h; exact ⟨false, d, rfl⟩
  | _ => cases h <;> exact ⟨true, _, rfl⟩

/-- Settles O7: the cycle takes its enables, address and data from the two encodings, which decode back. -/
theorem oneCycleCarriesAReadAndAWrite : Obligations.OneCycleCarriesAReadAndAWrite := by
  unfold Obligations.OneCycleCarriesAReadAndAWrite
  intro rd wr h
  simp only [cycleWf, Bool.and_eq_true, Option.isSome_iff_exists, beq_iff_eq] at h
  obtain ⟨⟨⟨hrd, hwr⟩, a, hread⟩, hsame⟩ := h
  obtain ⟨re, hrdWord⟩ := encode_of_readAddr hread
  obtain ⟨we, d, hwrWord⟩ := encode_of_writeAddr (hsame.symm.trans hread)
  refine ⟨⟨false, we, re, a, d⟩, rfl, ?_, ?_⟩
  · calc decode (.hostRd (hostWord re a)) = decode (encode rd) := by rw [hrdWord]
      _ = rd := decodeUndoesEncode rd hrd
  · calc decode (.hostWr (hostWord we a) d) = decode (encode wr) := by rw [hwrWord]
      _ = wr := decodeUndoesEncode wr hwr

/-! ### The input vector (30_encoding.md R102) -/

theorem toNat_append_eq_add {m n : Nat} (u : BitVec m) (v : BitVec n) :
    (u ++ v).toNat = u.toNat * 2 ^ n + v.toNat := by
  rw [BitVec.toNat_append, ← Nat.shiftLeft_add_eq_or_of_lt v.isLt, Nat.shiftLeft_eq]

theorem hostWord_eq_append : ∀ (en : Bool) (a : BitVec 4), hostWord en a = BitVec.ofBool en ++ a := by decide

theorem toNat_toVector (i : HostInput) :
    i.toVector.toNat = i.rst.toNat * 2 ^ 38 + i.we.toNat * 2 ^ 37 + i.re.toNat * 2 ^ 36 +
      i.addr.toNat * 2 ^ 32 + i.wdata.toNat := by
  have haddr := i.addr.isLt
  have hdata := i.wdata.isLt
  have hrst := i.rst.toNat_le
  have hwe := i.we.toNat_le
  have hre := i.re.toNat_le
  rw [HostInput.toVector, BitVec.toNat_ofNat]
  omega

theorem toVector_eq_append (i : HostInput) :
    i.toVector = BitVec.ofBool i.rst ++ BitVec.ofBool i.we ++ BitVec.ofBool i.re ++ i.addr ++ i.wdata := by
  apply BitVec.eq_of_toNat_eq
  simp only [toNat_toVector, toNat_append_eq_add, BitVec.toNat_ofBool]
  omega

theorem ofVector_toVector (i : HostInput) : HostInput.ofVector i.toVector = i := by
  have haddr : BitVec.ofNat 4 (i.toVector.toNat / 2 ^ 32) = i.addr := by
    have hdata := i.wdata.isLt
    apply BitVec.eq_of_toNat_eq
    rw [toNat_toVector, BitVec.toNat_ofNat]
    omega
  have hdata : BitVec.ofNat 32 i.toVector.toNat = i.wdata := by
    apply BitVec.eq_of_toNat_eq
    rw [toNat_toVector, BitVec.toNat_ofNat]
    omega
  rw [HostInput.ofVector, haddr, hdata, toVector_eq_append]
  simp only [BitVec.getLsbD_append]
  simp

theorem toVector_ofVector (v : BitVec 39) : (HostInput.ofVector v).toVector = v := by
  have hlt := v.isLt
  have hbit : ∀ k, (v.getLsbD k).toNat = v.toNat / 2 ^ k % 2 := Nat.toNat_testBit v.toNat
  apply BitVec.eq_of_toNat_eq
  simp only [toNat_toVector, HostInput.ofVector, hbit, BitVec.toNat_ofNat]
  omega

/-- Settles O6: the vector is the concatenation of the port values, and its slices give them back. -/
theorem inputVectorHoldsEveryPortBit : Obligations.InputVectorHoldsEveryPortBit := by
  unfold Obligations.InputVectorHoldsEveryPortBit
  exact ⟨ofVector_toVector, toVector_ofVector, fun i =>
    ⟨hostWord_eq_append i.re i.addr, hostWord_eq_append i.we i.addr, toVector_eq_append i⟩⟩

end Sys2Proof

/-! ## One edge of the timer: where an armed deadline and a pending firing come from, and how far off the
deadline is (44_timer.md R221 to R230) -/

namespace Sys2Proof.Machine

theorem toNat_deadline_sub {delay : Nat} (time : Word) (hdelay : delay ≤ 2 ^ 32 - 1) :
    (deadline time delay - time).toNat = delay := by
  have htime := time.isLt
  rw [BitVec.toNat_sub, deadline, BitVec.toNat_ofNat]
  omega

theorem deadline_ne {delay : Nat} (time : Word) (hpos : 1 ≤ delay) (hdelay : delay ≤ 2 ^ 32 - 1) :
    deadline time delay ≠ time := by
  intro h
  have hzero := toNat_deadline_sub time hdelay
  rw [h, BitVec.sub_self] at hzero
  have : (0#32).toNat = 0 := rfl
  omega

/-- Settles O52: both halves are arithmetic modulo 2^32. -/
theorem deadlineLiesTheDelayAhead : Obligations.DeadlineLiesTheDelayAhead := by
  unfold Obligations.DeadlineLiesTheDelayAhead
  exact fun time _ hpos hdelay => ⟨deadline_ne time hpos hdelay, toNat_deadline_sub time hdelay⟩

/-- The delay of every tick lies in the range of R234. -/
theorem r280Delay_range (s : State) : s.cfg.periodUs ≤ r280Delay s ∧ r280Delay s ≤ 2 ^ 32 - 1 := by
  have hfit := s.cfg.delay_le
  unfold r280Delay
  repeat' split
  all_goals omega

/-- An armed deadline after an edge was written at that edge, or stood before it and has not fired. -/
theorem armed_origin {s : State} (h : (r280Run s).armed = true) :
    (∃ delay, s.cfg.periodUs ≤ delay ∧ delay ≤ 2 ^ 32 - 1 ∧
      (r280Run s).alarm = deadline s.time delay) ∨
    (s.armed = true ∧ s.time ≠ s.alarm ∧ startsTick s = false ∧ (r280Run s).alarm = s.alarm) := by
  rw [r280Run_alarm]
  by_cases hen : enabling s = true
  · have hfit := s.cfg.delay_le
    exact .inl ⟨s.cfg.periodUs, le_rfl, by omega, if_pos hen⟩
  by_cases hstart : startsTick s = true
  · obtain ⟨hlo, hhi⟩ := r280Delay_range s
    exact .inl ⟨r280Delay s, hlo, hhi, by rw [if_neg hen, if_pos hstart]⟩
  · have hkept : disabling s = false ∧ fires s = false ∧ s.armed = true := by
      simpa [hen, hstart, and_assoc] using h
    obtain ⟨hdis, hfire, harmed⟩ := hkept
    exact .inr ⟨harmed, fun heq => by simp [fires, harmed, heq, hdis] at hfire, by simpa using hstart,
      by rw [if_neg hen, if_neg hstart]⟩

/-- An armed deadline after an edge lies ahead of the time of the edge. -/
theorem armed_alarm_ne {s : State} (h : (r280Run s).armed = true) : (r280Run s).alarm ≠ s.time := by
  have hpos := s.cfg.one_le_periodUs
  obtain ⟨delay, hlo, hhi, halarm⟩ | ⟨-, hne, -, halarm⟩ := armed_origin h
  · rw [halarm]; exact deadline_ne s.time (by omega) hhi
  · rw [halarm]; exact hne.symm

/-- A firing pending after an edge fired at that edge, or stood before it and did not start its tick. -/
theorem pending_origin {s : State} (h : (r280Run s).pending = true) :
    startsTick s = false ∧ disabling s = false ∧ (r280Run s).alarm = s.alarm ∧
      (fires s = true ∨ s.pending = true) := by
  have hkept : (disabling s = false ∧ enabling s = false ∧ startsTick s = false) ∧
      (fires s = true ∨ s.pending = true) := by
    simpa using h
  obtain ⟨⟨hdis, hen, hstart⟩, hfired⟩ := hkept
  exact ⟨hstart, hdis, by simp [hen, hstart], hfired⟩

/-- A frame in progress after an edge that starts no tick was in progress before it, one cycle back. -/
theorem busy_origin {s : State} (h : (r280Run s).busy = true) (hstart : startsTick s = false) :
    s.busy = true ∧ frameCycle (r280Run s) = frameCycle s + 1 := by
  have hkept : s.busy = true ∧ frameEnds s = false := by simpa [hstart] using h
  obtain ⟨hbusy, hends⟩ := hkept
  exact ⟨hbusy, by simp [hstart, hbusy, hends]⟩

/-- From an edge to the next, the cycles to a deadline that is not now become one less: the whole microseconds
to it, in cycles, less the cycles into the current one. -/
theorem micros_mul_clk_r280Run {s : State} (hp : s.presc < s.cfg.clkPerUs) {a : Word} (ha : a ≠ s.time) :
    (a - (r280Run s).time).toNat * s.cfg.clkPerUs + s.presc + 1 =
      (a - s.time).toNat * s.cfg.clkPerUs + (r280Run s).presc := by
  by_cases hwrap : s.presc = s.cfg.clkPerUs - 1
  · have hone : (a - s.time).toNat = (a - (s.time + 1)).toNat + 1 := by
      have hne : a.toNat ≠ s.time.toNat := fun h => ha (BitVec.eq_of_toNat_eq h)
      have h1 : (1 : Word).toNat = 1 := rfl
      have hat := a.isLt
      have htt := s.time.isLt
      rw [BitVec.toNat_sub, BitVec.toNat_sub, BitVec.toNat_add, h1]
      omega
    rw [r280Run_time, r280Run_presc, if_pos hwrap, if_pos hwrap, hone, Nat.succ_mul]
    omega
  · rw [r280Run_time, r280Run_presc, if_neg hwrap, if_neg hwrap]
    omega

/-- Settles O35: the deadline is ahead of the edge, so the time reaches it only by the wrap of the prescaler. -/
theorem everyStepKeepsTheFireAligned : Obligations.EveryStepKeepsTheFireAligned := by
  unfold Obligations.EveryStepKeepsTheFireAligned
  intro s t _ hstep
  obtain rfl := step_eq_next_iff.1 hstep
  unfold r280
  split
  · exact fun h => absurd h (by simp)
  · intro harmed htime
    have hne := armed_alarm_ne harmed
    rw [← htime] at hne
    rw [r280Run_time] at hne
    rw [r280Run_presc]
    split at hne
    · rw [if_pos ‹_›]
    · exact absurd rfl hne

/-- A pending firing that has not started its tick waits for a frame (44_timer.md R227). -/
theorem busy_of_pending {s : State} (hinv : Inv s) (hpending : s.pending = true) (hdis : disabling s = false)
    (hstart : startsTick s = false) : s.busy = true := by
  simpa [startsTick, hinv.pending_enabled hpending, hpending, hdis] using hstart

/-- Where the frames are on time, a firing that is pending after an edge is at its deadline, and neither its
microsecond nor, in it, the frame that it waits for ends later than the coming edge. -/
theorem pending_in_its_microsecond {s : State} (hinv : Inv s) (haligned : FireAligned s)
    (hontime : OnTime s) (h : (r280Run s).pending = true) :
    s.time = s.alarm ∧ s.presc + 1 < s.cfg.clkPerUs ∧
      (s.busy = true → s.cfg.xferCycles + s.presc < frameCycle s + s.cfg.clkPerUs) := by
  obtain ⟨hstart, hdis, -, hfire | hpending⟩ := pending_origin h
  · obtain ⟨harmed, htime, -⟩ := fires_iff.1 hfire
    have hpresc := haligned harmed htime
    have hclk := s.cfg.two_le_clkPerUs
    have hzero : microsToAlarm s = 0 := by simp [microsToAlarm, htime]
    refine ⟨htime, by omega, fun hbusy => ?_⟩
    simpa [hzero] using hontime.armed_frame harmed hbusy
  · have hframe := hontime.pending_frame hpending (busy_of_pending hinv hpending hdis hstart)
    have hrange := hinv.xcnt_range
    exact ⟨hontime.pending_time hpending, by omega, fun _ => hframe⟩

/-- No frame in progress keeps a firing waiting past its microsecond, from one edge to the next. -/
theorem onTime_r280Run {s : State} (hfits : FrameFits s.cfg) (hinv : Inv s) (haligned : FireAligned s)
    (hontime : OnTime s) : OnTime (r280Run s) where
  armed_frame := by
    intro harmed hbusy
    have hcycles := micros_mul_clk_r280Run hinv.presc_range (armed_alarm_ne harmed)
    have hp := hinv.presc_range
    rw [microsToAlarm, r280Run_cfg, Nat.succ_mul]
    obtain ⟨delay, hlo, hhi, halarm⟩ | ⟨harmed', -, hstart, halarm⟩ := armed_origin harmed
    · have hdelay : s.cfg.periodUs * s.cfg.clkPerUs ≤ delay * s.cfg.clkPerUs := Nat.mul_le_mul_right _ hlo
      have hfit : s.cfg.xferCycles < s.cfg.periodUs * s.cfg.clkPerUs := hfits
      rw [halarm] at hcycles ⊢
      rw [toNat_deadline_sub s.time hhi] at hcycles
      omega
    · obtain ⟨hbusy', hcount⟩ := busy_origin hbusy hstart
      have hbefore := hontime.armed_frame harmed' hbusy'
      rw [microsToAlarm, Nat.succ_mul] at hbefore
      rw [halarm] at hcycles ⊢
      omega
  pending_time := by
    intro hpending
    obtain ⟨-, -, halarm, -⟩ := pending_origin hpending
    obtain ⟨htime, hpresc, -⟩ := pending_in_its_microsecond hinv haligned hontime hpending
    rw [halarm, r280Run_time, if_neg (by omega), htime]
  pending_frame := by
    intro hpending hbusy
    obtain ⟨hstart, -⟩ := pending_origin hpending
    obtain ⟨-, hpresc, hframe⟩ := pending_in_its_microsecond hinv haligned hontime hpending
    obtain ⟨hbusy', hcount⟩ := busy_origin hbusy hstart
    have hbefore := hframe hbusy'
    rw [r280Run_cfg, hcount, r280Run_presc, if_neg (by omega)]
    omega

theorem onTime_of_disabled {s : State} (harmed : s.armed = false) (hpending : s.pending = false) :
    OnTime s := by
  constructor <;> simp [harmed, hpending]

/-- Settles O36: every edge keeps the frames on time, and a pending firing that is on time is not late. -/
theorem noTickIsLateWhereTheFrameFits : Obligations.NoTickIsLateWhereTheFrameFits := by
  unfold Obligations.NoTickIsLateWhereTheFrameFits
  intro s t hfits hinv haligned hontime hstep
  refine ⟨step_cfg hstep ▸ hfits, ?_, ?_⟩
  · obtain rfl := step_eq_next_iff.1 hstep
    unfold r280
    split
    · exact onTime_of_disabled rfl rfl
    · exact onTime_r280Run hfits hinv haligned hontime
  · intro hrst
    obtain rfl := (step_eq_next_iff_of_not_rst hrst).1 hstep
    rw [r280Run_missed, if_neg]
    rintro ⟨hstart, hlate⟩
    obtain ⟨-, hpending, -⟩ := startsTick_iff.1 hstart
    exact hlate (hontime.pending_time hpending)

/-- Settles O32: each part of an edge keeps the invariants. -/
theorem everyStepKeepsTheInvariants : Obligations.EveryStepKeepsTheInvariants := by
  unfold Obligations.EveryStepKeepsTheInvariants
  exact fun _ _ => inv_step

/-- Settles O34: in the reset state nothing is armed or pending, so the timing conditions ask nothing. -/
theorem resetStateMeetsTheInvariants : Obligations.ResetStateMeetsTheInvariants := by
  unfold Obligations.ResetStateMeetsTheInvariants
  exact fun c script => ⟨inv_resetOf c script, fun h => absurd h (by simp), onTime_of_disabled rfl rfl, rfl⟩

end Sys2Proof.Machine

/-! ## What one edge writes and what it leaves, read off the next-state function (10_state.md R39, R47;
43_output.md R199; 44_timer.md R224, R230, R231; 45_host.md R250, R265; 46_cycle_step.md R282) -/

namespace Sys2Proof.Machine

/-- Settles O38: both kinds of edge put the port value in its field. -/
theorem stepKeepsThePortValue : Obligations.StepKeepsThePortValue := by
  unfold Obligations.StepKeepsThePortValue
  intro s t hstep
  refine ⟨?_, step_cfg hstep⟩
  obtain rfl := step_eq_next_iff.1 hstep
  unfold r280
  split <;> rfl

/-- Of the next state only the port value depends on the read enable of the cycle. -/
theorem r280_of_read_enable (s : State) (i : HostInput) (is : List HostInput) (re : Bool) :
    ∃ v, r280 (withScript ({ i with re := re } :: is) s) = putRdata v (r280 (withScript (i :: is) s)) := by
  have hrst : ∀ j, (withScript (j :: is) s).input.rst = j.rst := fun _ => rfl
  refine ⟨portRdata (withScript ({ i with re := re } :: is) s), ?_⟩
  unfold r280
  rw [hrst, hrst]
  cases i.rst <;> rfl

/-- Settles O39: the two steps differ in the read enable alone, and so their results in the port value. -/
theorem readsHaveNoSideEffect : Obligations.ReadsHaveNoSideEffect := by
  unfold Obligations.ReadsHaveNoSideEffect
  intro s t i is re hinputs hstep
  obtain rfl := step_eq_next_iff.1 hstep
  obtain ⟨v, hnext⟩ := r280_of_read_enable s i is re
  rw [show withScript (i :: is) s = s by rw [← hinputs]; rfl] at hnext
  exact ⟨putRdata v (r280 s), step_eq_next_iff.2 hnext, rfl⟩

/-- Settles O30: the read changes only the port value, on which neither the tick start nor the selector
depends, and an edge's three kinds are the cases of `edge`. -/
theorem stepRunsTheDecodedOperations : Obligations.StepRunsTheDecodedOperations := by
  unfold Obligations.StepRunsTheDecodedOperations
  rintro s _ _ _ rfl rfl rfl
  have hread : exec (decode (.hostRd s.input.rdWord)) s = .next (putRdata (portRdata s) s) := exec_readCommand s
  have hstep : step s = if s.input.rst then resetEdge (putRdata (portRdata s) s)
      else runningEdge (putRdata (portRdata s) s) := by
    unfold step edge
    rw [exec_readCommand, andThen_next, putRdata_input]
  rw [hread, hstep]
  refine ⟨fun hrst => by rw [hrst]; rfl, ?_, ?_⟩ <;>
  · intro hrst hstart
    rw [hrst]
    simp only [andThen_next, runningEdge, tickOperation, putRdata_startsTick, hstart]
    rfl

theorem writeCtrl_enables {d : Word} {s : State} (hd : d.getLsbD 0 = true) (hen : s.enable = false) :
    writeCtrl d s = enableBlock s := by
  rw [writeCtrl, hd, hen]; rfl

theorem writeCtrl_disables {d : Word} {s : State} (hd : d.getLsbD 0 = false) (hen : s.enable = true) :
    writeCtrl d s = disableBlock s := by
  rw [writeCtrl, hd, hen]; rfl

/-- Settles O28: the three cases of `writeCtrl`, with the registers that each of them writes. -/
theorem ctrlWriteEnablesOrDisables : Obligations.CtrlWriteEnablesOrDisables := by
  unfold Obligations.CtrlWriteEnablesOrDisables
  intro s d
  exact ⟨fun hd hen => ⟨_, congrArg Host.Outcome.next (writeCtrl_enables hd hen), rfl, BitVec.toNat_ofNat ..⟩,
    fun hd hen => congrArg Host.Outcome.next (writeCtrl_disables hd hen),
    fun hd => congrArg Host.Outcome.next (writeCtrl_of_eq_enable hd)⟩

/-- Settles O42: the count of the next state is `r280Run_missed`, as a number. -/
theorem missedCountsLateTicksAndSaturates : Obligations.MissedCountsLateTicksAndSaturates := by
  unfold Obligations.MissedCountsLateTicksAndSaturates
  intro s t hrst hstep
  obtain rfl := (step_eq_next_iff_of_not_rst hrst).1 hstep
  rw [r280Run_missed, apply_ite BitVec.toNat, toNat_saturatingSucc]

/-! ### Who writes each register -/

/-- The selected operation is `SEG_EMIT` below the end of a segment (30_encoding.md R85). -/
theorem selects_segEmit {s : State} (hlt : s.idx.toNat < s.len) (hp : s.cfg.policy = .segmented) :
    ∃ x, decode (.ticksel (tickSelector s)) = .segEmit x :=
  ⟨s.seg, by rw [decode_tickSelector, hp, atEnd_eq_false_iff.2 hlt]⟩

/-- The selected operation is one of the two flips at the end of a segment (30_encoding.md R85). -/
theorem selects_segFlip {s : State} (hend : ¬s.idx.toNat < s.len) (hp : s.cfg.policy = .segmented) :
    decode (.ticksel (tickSelector s)) = .segFlipS2C ∨
      decode (.ticksel (tickSelector s)) = .segFlipC2SRest := by
  rw [decode_tickSelector, hp, atEnd_eq_true_iff.2 (Nat.not_lt.1 hend)]
  cases s.seg
  · exact .inl rfl
  · exact .inr rfl

/-- A frame's count stays between frames. -/
theorem frame_kept {s : State} (hbusy : s.busy = false) (hemit : ¬(startsTick s = true ∧ s.idx.toNat < s.len)) :
    (r280Run s).busy = s.busy ∧ (r280Run s).xcnt = s.xcnt ∧ (r280Run s).xcntHigh = s.xcntHigh := by
  have hends : frameEnds s = false := by simp [frameEnds, hbusy]
  have hcount : frameCycle (r280Run s) = frameCycle s := by simp [hbusy, hemit, hends]
  exact ⟨by simp [hbusy, hemit], xcnt_eq_of_frameCycle_eq hcount⟩

/-- Settles O41: where none of a register's writers is at work, its next value is its value. -/
theorem onlyTheNamedWritersWrite : Obligations.OnlyTheNamedWritersWrite := by
  unfold Obligations.OnlyTheNamedWritersWrite
  intro s t hrst hstep
  obtain rfl := (step_eq_next_iff_of_not_rst hrst).1 hstep
  refine ⟨?phase, ?seg, ?idx, ?time, ?alarm, ?armed, ?pending, ?enable, ?frame, ?word, ?missed⟩
  case phase =>
    rw [r280Run_phase]
    intro h
    obtain ⟨⟨hstart, hlt⟩, hp⟩ := (ite_ne_right_iff.1 h).1
    exact ⟨hstart, selects_segEmit hlt hp⟩
  case seg =>
    rw [r280Run_seg]
    intro h
    obtain ⟨⟨hstart, hend⟩, hflip⟩ := ite_ne_right_iff.1 h
    cases hp : s.cfg.policy with
    | segmented => exact ⟨hstart, selects_segFlip hend hp⟩
    | concatenated => exact absurd (nextSeg_of_concatenated hp s.seg) hflip
  case frame =>
    intro h
    by_contra hn
    obtain ⟨hidle, hemit⟩ := not_or.1 hn
    obtain ⟨hbusy, hxcnt, hhigh⟩ := frame_kept (by simpa using hidle) hemit
    obtain h | h | h := h
    · exact h hbusy
    · exact h hxcnt
    · exact h hhigh
  case idx | time | word | missed =>
    intro h
    by_contra hn
    simp [hn] at h
  case alarm | armed | pending | enable =>
    contrapose!
    intro hn
    simp [hn]

theorem frameEnds_of_lt {s : State} (hlt : frameCycle s + 1 < s.cfg.xferCycles) : frameEnds s = false := by
  simp only [frameEnds, Bool.and_eq_false_iff, decide_eq_false_iff_not]
  omega

theorem frameEnds_of_last {s : State} (hbusy : s.busy = true) (hlast : frameCycle s + 1 = s.cfg.xferCycles) :
    frameEnds s = true :=
  frameEnds_eq_true_iff.2 ⟨hbusy, by omega⟩

/-- Settles O43: with the disabling write, no fire, no tick and no enabling write is left to write a register. -/
theorem disablingWriteStopsAtOnce : Obligations.DisablingWriteStopsAtOnce := by
  unfold Obligations.DisablingWriteStopsAtOnce
  intro s hrst hwe haddr hd hen
  have hdis : disabling s = true := disabling_iff.2 ⟨⟨hwe, haddr⟩, hd, hen⟩
  have hstart : startsTick s = false := by simp [startsTick, hdis]
  have hnen : enabling s = false := by simp [enabling, hen]
  refine ⟨r280Run s, (step_eq_next_iff_of_not_rst hrst).2 rfl, ?_⟩
  simp +contextual [hdis, hstart, hnen, frameEnds_of_lt, frameEnds_of_last]

/-- Settles O44: the block is disabled before the edge, so the enabling write is the edge's only event. -/
theorem enablingWriteArmsOnePeriodAhead : Obligations.EnablingWriteArmsOnePeriodAhead := by
  unfold Obligations.EnablingWriteArmsOnePeriodAhead
  intro s hrst hwe haddr hd hdisabled
  have hen : enabling s = true := enabling_iff.2 ⟨⟨hwe, haddr⟩, hd, hdisabled⟩
  have hdis : disabling s = false := by simp [disabling, hdisabled]
  have hstart : startsTick s = false := by simp [startsTick, hdisabled]
  refine ⟨r280Run s, (step_eq_next_iff_of_not_rst hrst).2 rfl, ?_⟩
  simp [hen, hdis, hstart, deadline]

/-- Settles O46: each pair of events needs two values of one bit, of `ENABLE` or of the data, or both `ARMED`
and `PENDING`. -/
theorem eventsOfOneEdgeExcludeEachOther : Obligations.EventsOfOneEdgeExcludeEachOther := by
  unfold Obligations.EventsOfOneEdgeExcludeEachOther
  intro s hinv
  refine ⟨?_, ?_, ?_, ?_⟩
  · rintro ⟨hfire, hstart⟩
    exact hinv.not_armed_and_pending ⟨fires_armed hfire, (startsTick_iff.1 hstart).2.1⟩
  · intro hen
    obtain ⟨-, -, hdisabled⟩ := enabling_iff.1 hen
    have harmed : s.armed = false := by
      by_contra h
      simp [hinv.armed_enabled (by simpa using h)] at hdisabled
    exact ⟨by simp [fires, harmed], by simp [startsTick, hdisabled]⟩
  · intro hdis
    obtain ⟨-, -, hen⟩ := disabling_iff.1 hdis
    exact ⟨by simp [fires, hdis], by simp [startsTick, hdis], by simp [enabling, hen]⟩
  · exact fun hstart => (startsTick_iff.1 hstart).2.2.1

/-- Settles O45: at the fire edge no write has an effect and no tick starts. -/
theorem fireDisarmsAndBecomesPending : Obligations.FireDisarmsAndBecomesPending := by
  unfold Obligations.FireDisarmsAndBecomesPending
  intro s hinv hrst harmed htime hwrite
  have henable := hinv.armed_enabled harmed
  have hdis : disabling s = false := by
    by_contra h
    obtain ⟨⟨hwe, haddr⟩, hd, -⟩ := disabling_iff.1 (by simpa using h)
    exact hwrite ⟨hwe, haddr, hd⟩
  have hfire : fires s = true := fires_iff.2 ⟨harmed, htime, by simp [hdis]⟩
  have hen : enabling s = false := by simp [enabling, henable]
  have hstart : startsTick s = false := by
    by_contra h
    exact (eventsOfOneEdgeExcludeEachOther s hinv).1 ⟨hfire, by simpa using h⟩
  refine ⟨r280Run s, (step_eq_next_iff_of_not_rst hrst).2 rfl, ?_⟩
  simp [hdis, hen, hstart, hfire]

/-- Settles O47: an emitting tick adds 1, and a transition tick returns to 0 from the end of a region, which is
not empty. -/
theorem everyTickMovesTheIndex : Obligations.EveryTickMovesTheIndex := by
  unfold Obligations.EveryTickMovesTheIndex
  intro s t _ hrst hstart hstep
  obtain rfl := (step_eq_next_iff_of_not_rst hrst).1 hstep
  by_cases hlt : s.idx.toNat < s.len
  · simp [hstart, hlt]
  · have hlen : 2 ≤ s.len := s.cfg.two_le_regionLen s.seg
    rw [r280Run_idx, if_neg (by simp [hlt]), if_pos ⟨hstart, hlt⟩]
    intro hzero
    have hidx : s.idx.toNat = 0 := by rw [← hzero]; rfl
    omega

/-- Settles O48: `r280Run_probePulse` and `r280Run_busy`, in the three cases. -/
theorem probeMarksEveryTick : Obligations.ProbeMarksEveryTick := by
  unfold Obligations.ProbeMarksEveryTick
  intro s t hrst hstep
  obtain rfl := (step_eq_next_iff_of_not_rst hrst).1 hstep
  refine ⟨fun hstart hlt => ?_, fun hstart hend => ?_, fun hstart => ?_⟩
  · simp [probe, hstart, hlt]
  · simp [probe, hstart, Nat.not_lt.2 hend, (startsTick_iff.1 hstart).2.2.1]
  · simp [probe, hstart]

end Sys2Proof.Machine

/-! ## Runs as iterates of the next-state function, and the frame of an emitting tick from its start to its end
(43_output.md R194 to R197) -/

namespace Sys2Proof.Machine

/-- A run of `k` edges never stops and ends in one state. -/
theorem after_iff {k : Nat} {s t : State} : After k s t ↔ r280^[k] s = t := by
  induction k generalizing s with
  | zero => exact ⟨Host.Outcome.next.inj, congrArg Host.Outcome.next⟩
  | succ k ih =>
    have hstep : Sys2Proof.core.step s = .next (r280 s) := stepIsTheNextStateFunction s
    rw [Function.iterate_succ_apply, ← ih]
    simp only [After, Host.Core.run, hstep]

theorem after_iterate (k : Nat) (s : State) : After k s (r280^[k] s) := after_iff.2 rfl

theorem startsTick_of_busy {s : State} (hbusy : s.busy = true) : startsTick s = false := by
  simp [startsTick, hbusy]

/-- A frame in progress that has further cycles counts one at each edge without reset. -/
theorem frame_goes_on {s : State} (hbusy : s.busy = true) (hlt : frameCycle s + 1 < s.cfg.xferCycles) :
    (r280Run s).busy = true ∧ frameCycle (r280Run s) = frameCycle s + 1 ∧
      (r280Run s).lastWord = s.lastWord ∧ (r280Run s).valid = s.valid := by
  have hends := frameEnds_of_lt hlt
  have hstart := startsTick_of_busy hbusy
  simp [hbusy, hends, hstart]

/-- The last cycle of a frame ends at an edge without reset, which starts no tick. -/
theorem frame_ends {s : State} (hbusy : s.busy = true) (hlast : frameCycle s + 1 = s.cfg.xferCycles) :
    (r280Run s).busy = false ∧ frameCycle (r280Run s) = 0 ∧ (r280Run s).lastWord = s.lastWord := by
  have hends := frameEnds_of_last hbusy hlast
  have hstart := startsTick_of_busy hbusy
  simp [hends, hstart]

/-- At a rising edge `j` the next cycle is in half-period `2 * j + 1` and this one in the half-period before. -/
theorem half_periods_at_rise {n h j : Nat} (hh : 1 ≤ h) (hj : n + 1 = h * (2 * j + 1)) :
    n / h = 2 * j ∧ (n + 1) / h = 2 * j + 1 := by
  have hdiv : (n + 1) / h = 2 * j + 1 := by rw [hj, Nat.mul_div_cancel_left _ hh]
  refine ⟨?_, hdiv⟩
  rw [Nat.succ_div, if_pos ⟨_, hj⟩] at hdiv
  omega

/-- From a cycle in an even half-period to one in an odd half-period: the next cycle starts a half-period, so `h`
divides its count (43_output.md R194). -/
theorem half_period_odd_iff {n h : Nat} (hh : 1 ≤ h) (hlt : n + 1 < 33 * h) :
    (n / h % 2 = 0 ∧ (n + 1) / h % 2 = 1) ↔ ∃ j, j ≤ 15 ∧ n + 1 = h * (2 * j + 1) := by
  constructor
  · rintro ⟨heven, hodd⟩
    have hdvd : h ∣ n + 1 := by
      by_contra hn
      rw [Nat.succ_div, if_neg hn] at hodd
      omega
    obtain ⟨q, hq⟩ := hdvd
    rw [hq, Nat.mul_div_cancel_left q hh] at hodd
    have hq33 : q < 33 := by
      rw [hq, Nat.mul_comm] at hlt
      exact Nat.lt_of_mul_lt_mul_right hlt
    exact ⟨q / 2, by omega, by rw [hq, show 2 * (q / 2) + 1 = q by omega]⟩
  · rintro ⟨j, -, hj⟩
    obtain ⟨hlow, hhigh⟩ := half_periods_at_rise hh hj
    omega

theorem dacCsN_of_busy {s : State} (hbusy : s.busy = true) : dacCsN s = false := by simp [dacCsN, hbusy]

theorem dacSclk_of_busy {s : State} (hbusy : s.busy = true) :
    dacSclk s = (frameCycle s / s.cfg.sclkHalf % 2 == 1) := by
  simp [dacSclk, hbusy, halfPeriod]

theorem dacMosi_of_half_period {s : State} {h : Nat} (hbusy : s.busy = true)
    (hh : frameCycle s / s.cfg.sclkHalf = h) :
    dacMosi s = (decide (h ≤ 31) && s.lastWord.getLsbD (15 - h / 2)) := by
  simp [dacMosi, hbusy, halfPeriod, hh]

/-- Settles O49: the count goes up by one, so the clock rises where the half-period does, to an odd one. -/
theorem serialClockRisesOnceForEachBit : Obligations.SerialClockRisesOnceForEachBit := by
  unfold Obligations.SerialClockRisesOnceForEachBit
  intro s hbusy hrst hlt
  obtain ⟨hbusy', hcount, hword, -⟩ := frame_goes_on hbusy hlt
  have hh := s.cfg.one_le_sclkHalf
  have hrange : frameCycle s + 1 < 33 * s.cfg.sclkHalf := hlt
  have hsclk := dacSclk_of_busy hbusy
  have hsclk' := dacSclk_of_busy hbusy'
  rw [hcount, r280Run_cfg] at hsclk'
  refine ⟨r280Run s, (step_eq_next_iff_of_not_rst hrst).2 rfl, hcount, dacCsN_of_busy hbusy,
    dacCsN_of_busy hbusy', ?firstCycle, ?rise, ?data, ?hold⟩
  case firstCycle =>
    intro hzero
    simp [hsclk, hzero]
  case rise =>
    rw [hcount, hsclk, hsclk', ← half_period_odd_iff hh hrange]
    simp
  case data =>
    intro j hj hcycle
    rw [hcount] at hcycle
    obtain ⟨hlow, hhigh⟩ := half_periods_at_rise hh hcycle
    have hhigh' : frameCycle (r280Run s) / (r280Run s).cfg.sclkHalf = 2 * j + 1 := by
      rwa [hcount, r280Run_cfg]
    rw [dacMosi_of_half_period hbusy hlow, dacMosi_of_half_period hbusy' hhigh', hword]
    have hbit : (2 * j + 1) / 2 = j := by omega
    have hbound : 2 * j + 1 ≤ 31 := by omega
    simp [hbit, hbound, Nat.le_of_succ_le hbound]
  case hold =>
    intro hhold
    rw [hcount] at hhold
    have hhalf : (frameCycle s + 1) / s.cfg.sclkHalf = 32 := Nat.div_eq_of_lt_le hhold hrange
    have hhalf' : frameCycle (r280Run s) / (r280Run s).cfg.sclkHalf = 32 := by
      rwa [hcount, r280Run_cfg]
    exact ⟨by simp [hsclk', hhalf], by rw [dacMosi_of_half_period hbusy' hhalf']; rfl⟩

/-- `s` is in cycle `n` of a frame that sends `w` under the configuration `c`, and the script has no reset. -/
structure InFrame (c : Config) (w : DacWord) (n : Nat) (s : State) : Prop where
  cfg : s.cfg = c
  busy : s.busy = true
  count : frameCycle s = n
  word : s.lastWord = w
  valid : s.valid = true
  noReset : NoReset s

theorem NoReset.next {s : State} (h : NoReset s) : NoReset (r280 s) :=
  h.of_step (stepIsTheNextStateFunction s)

theorem NoReset.r280_eq_r280Run {s : State} (h : NoReset s) : r280 s = r280Run s :=
  r280_of_not_rst h.input_rst

/-- An emitting tick starts a frame (43_output.md R193). -/
theorem inFrame_of_emit {s : State} (hnoReset : NoReset s) (hstart : startsTick s = true)
    (hlt : s.idx.toNat < s.len) :
    InFrame s.cfg (r280 s).lastWord 0 (r280 s) where
  cfg := by simp [hnoReset.r280_eq_r280Run]
  busy := by simp [hnoReset.r280_eq_r280Run, hstart, hlt]
  count := by simp [hnoReset.r280_eq_r280Run, hstart, hlt]
  word := rfl
  valid := by simp [hnoReset.r280_eq_r280Run, hstart, hlt]
  noReset := hnoReset.next

theorem InFrame.next {c : Config} {w : DacWord} {n : Nat} {s : State} (h : InFrame c w n s)
    (hlt : n + 1 < c.xferCycles) : InFrame c w (n + 1) (r280 s) := by
  obtain ⟨hbusy, hcount, hword, hvalid⟩ := frame_goes_on h.busy (by rwa [h.count, h.cfg])
  have hnext := h.noReset.r280_eq_r280Run
  exact {
    cfg := by rw [hnext]; exact h.cfg
    busy := by rw [hnext]; exact hbusy
    count := by rw [hnext, hcount, h.count]
    word := by rw [hnext, hword, h.word]
    valid := by rw [hnext, hvalid, h.valid]
    noReset := h.noReset.next }

theorem InFrame.iterate {c : Config} {w : DacWord} {s : State} (h : InFrame c w 0 s) {n : Nat}
    (hlt : n < c.xferCycles) : InFrame c w n (r280^[n] s) := by
  induction n with
  | zero => exact h
  | succ n ih =>
    rw [Function.iterate_succ_apply']
    exact (ih (Nat.lt_of_succ_lt hlt)).next hlt

/-- Settles O50: the start edge puts the frame in cycle 0, and each edge moves it one cycle on to its end. -/
theorem frameLastsExactlyXferCycles : Obligations.FrameLastsExactlyXferCycles := by
  unfold Obligations.FrameLastsExactlyXferCycles
  intro s hnoReset hstart hlt
  have hframe := inFrame_of_emit hnoReset hstart hlt
  refine ⟨(r280 s).lastWord, fun n hn => ?_, ?_⟩
  · have h := hframe.iterate hn
    refine ⟨_, after_iterate (n + 1) s, h.busy, h.count, fun hfit => ?_, h.word, h.valid,
      startsTick_of_busy h.busy⟩
    obtain ⟨hhigh, hlow⟩ := xcnt_of_frameCycle_lt (h.count.trans_lt hfit)
    exact ⟨hlow.trans h.count, hhigh⟩
  · have hpos := s.cfg.xferCycles_pos
    have h := hframe.iterate (Nat.sub_one_lt_of_lt hpos)
    obtain ⟨hbusy, hcount, hword⟩ := frame_ends h.busy (by rw [h.count, h.cfg]; omega)
    have hlast : r280^[s.cfg.xferCycles + 1] s = r280Run (r280^[s.cfg.xferCycles - 1] (r280 s)) := by
      rw [← h.noReset.r280_eq_r280Run, ← Function.iterate_succ_apply' r280, Function.iterate_succ_apply]
      congr 2
      omega
    refine ⟨_, after_iff.2 hlast, hbusy, (frameCycle_eq_zero.1 hcount).1, (frameCycle_eq_zero.1 hcount).2,
      hword.trans h.word⟩

end Sys2Proof.Machine

/-! ## Runs in which the host is quiet: what edges without a tick keep, when the alarm fires, and when the frame in
progress has ended (44_timer.md R221 to R228; 43_output.md R194) -/

namespace Sys2Proof.Machine

theorem HostQuiet.noReset {s : State} (h : HostQuiet s) : NoReset s := fun i hi => (h i hi).1

theorem HostQuiet.writesCtrl {s : State} (h : HostQuiet s) : writesCtrl s.input = false := by
  cases hscript : s.inputs with
  | nil => simp [State.input, hscript, HostInput.nop, Machine.writesCtrl]
  | cons i is => simpa [State.input, hscript] using (h i (by simp [hscript])).2

theorem HostQuiet.enabling {s : State} (h : HostQuiet s) : enabling s = false := by
  simp [Machine.enabling, h.writesCtrl]

theorem HostQuiet.disabling {s : State} (h : HostQuiet s) : disabling s = false := by
  simp [Machine.disabling, h.writesCtrl]

theorem r280_inputs (s : State) : (r280 s).inputs = s.inputs.tail := by
  unfold r280
  split <;> rfl

theorem HostQuiet.next {s : State} (h : HostQuiet s) : HostQuiet (r280 s) := by
  intro i hi
  rw [r280_inputs] at hi
  exact h i (List.mem_of_mem_tail hi)

theorem HostQuiet.r280_eq_r280Run {s : State} (h : HostQuiet s) : r280 s = r280Run s :=
  h.noReset.r280_eq_r280Run

theorem Inv.next {s : State} (h : Inv s) : Inv (r280 s) := inv_step h (stepIsTheNextStateFunction s)

/-- `t` has the registers of `s` that only a tick or a write changes. -/
structure Unticked (s t : State) : Prop where
  cfg : t.cfg = s.cfg
  phase : t.phase = s.phase
  seg : t.seg = s.seg
  idx : t.idx = s.idx
  alarm : t.alarm = s.alarm
  enable : t.enable = s.enable
  lastWord : t.lastWord = s.lastWord
  valid : t.valid = s.valid
  missed : t.missed = s.missed

theorem Unticked.refl (s : State) : Unticked s s := by constructor <;> rfl

theorem Unticked.trans {s t u : State} (h : Unticked s t) (h' : Unticked t u) : Unticked s u where
  cfg := h'.cfg.trans h.cfg
  phase := h'.phase.trans h.phase
  seg := h'.seg.trans h.seg
  idx := h'.idx.trans h.idx
  alarm := h'.alarm.trans h.alarm
  enable := h'.enable.trans h.enable
  lastWord := h'.lastWord.trans h.lastWord
  valid := h'.valid.trans h.valid
  missed := h'.missed.trans h.missed

/-- An edge with neither a tick nor a write keeps what only those change (10_state.md R47). -/
theorem unticked_r280 {s : State} (hquiet : HostQuiet s) (hstart : startsTick s = false) :
    Unticked s (r280 s) := by
  have hen := hquiet.enabling
  have hdis := hquiet.disabling
  rw [hquiet.r280_eq_r280Run]
  constructor <;> simp [hstart, hen, hdis]

/-- The cycles that the frame in progress still has, 0 between frames. -/
def cyclesLeft (s : State) : Nat := if s.busy then s.cfg.xferCycles - frameCycle s else 0

theorem cyclesLeft_of_busy {s : State} (hbusy : s.busy = true) :
    cyclesLeft s = s.cfg.xferCycles - frameCycle s := if_pos hbusy

theorem cyclesLeft_of_idle {s : State} (hidle : s.busy = false) : cyclesLeft s = 0 := by
  simp [cyclesLeft, hidle]

theorem cyclesLeft_eq_zero_iff {s : State} (hinv : Inv s) : cyclesLeft s = 0 ↔ s.busy = false := by
  refine ⟨fun hzero => ?_, cyclesLeft_of_idle⟩
  by_contra hbusy
  rw [cyclesLeft_of_busy (by simpa using hbusy)] at hzero
  have hlt := hinv.xcnt_range
  omega

/-- Every edge without a tick takes one cycle off the frame in progress. -/
theorem cyclesLeft_r280Run {s : State} (hstart : startsTick s = false) :
    cyclesLeft (r280Run s) = cyclesLeft s - 1 := by
  cases hbusy : s.busy
  · rw [cyclesLeft_of_idle hbusy, cyclesLeft_of_idle (by simp [hstart, hbusy])]
  · rw [cyclesLeft_of_busy hbusy]
    cases hends : frameEnds s
    · have hbusy' : (r280Run s).busy = true := by simp [hbusy, hends]
      obtain ⟨-, hcount⟩ := busy_origin hbusy' hstart
      rw [cyclesLeft_of_busy hbusy', hcount, r280Run_cfg, Nat.sub_sub]
    · have hlast := (frameEnds_eq_true_iff.1 hends).2
      rw [cyclesLeft_of_idle (by simp [hstart, hends])]
      omega

/-- An emitting tick leaves a whole frame to go, a transition tick none. -/
theorem cyclesLeft_of_tick {s : State} (hstart : startsTick s = true) :
    cyclesLeft (r280Run s) = if s.idx.toNat < s.len then s.cfg.xferCycles else 0 := by
  obtain ⟨-, -, hbusy⟩ := startsTick_excludes hstart
  split
  case isTrue hlt => simp [cyclesLeft, hstart, hlt]
  case isFalse hlt => simp [cyclesLeft, hstart, hlt, hbusy]

/-- From `s` to `t` in `j` edges, none of them with a tick, under a quiet host and the invariants. -/
structure QuietRun (j : Nat) (s t : State) : Prop where
  quiet : HostQuiet t
  inv : Inv t
  kept : Unticked s t
  left : cyclesLeft t = cyclesLeft s - j

theorem quietRun_zero {s : State} (hquiet : HostQuiet s) (hinv : Inv s) : QuietRun 0 s s :=
  ⟨hquiet, hinv, .refl s, rfl⟩

theorem QuietRun.next {j : Nat} {s t : State} (h : QuietRun j s t) (hstart : startsTick t = false) :
    QuietRun (j + 1) s (r280 t) where
  quiet := h.quiet.next
  inv := h.inv.next
  kept := h.kept.trans (unticked_r280 h.quiet hstart)
  left := by rw [h.quiet.r280_eq_r280Run, cyclesLeft_r280Run hstart, h.left, Nat.sub_sub]

/-- Under a quiet host the armed alarm fires at the edge that `k` edges come before: the whole microseconds to it,
in cycles, less the cycles into the current one. -/
structure FiresIn (k : Nat) (s : State) : Prop where
  quiet : HostQuiet s
  inv : Inv s
  armed : s.armed = true
  ahead : k + s.presc = microsToAlarm s * s.cfg.clkPerUs

/-- While the alarm is armed no edge starts a tick. -/
theorem FiresIn.not_starts {k : Nat} {s : State} (h : FiresIn k s) : startsTick s = false := by
  have hpending : s.pending = false := by
    by_contra hn
    exact h.inv.not_armed_and_pending ⟨h.armed, by simpa using hn⟩
  simp [startsTick, hpending]

/-- With cycles to go before the alarm, the coming edge leaves one fewer. -/
theorem FiresIn.next {k : Nat} {s : State} (h : FiresIn (k + 1) s) : FiresIn k (r280 s) := by
  have hahead := h.ahead
  have hne : s.alarm ≠ s.time := by
    intro heq
    simp [microsToAlarm, heq] at hahead
  have hen := h.quiet.enabling
  have hdis := h.quiet.disabling
  have hstart := h.not_starts
  have hfire : fires s = false := by simp [fires, hne.symm]
  have halarm : (r280Run s).alarm = s.alarm := by simp [hen, hstart]
  have hcycles := micros_mul_clk_r280Run h.inv.presc_range hne
  refine ⟨h.quiet.next, h.inv.next, ?_, ?_⟩ <;> rw [h.quiet.r280_eq_r280Run]
  · simp [hdis, hen, hstart, hfire, h.armed]
  · rw [microsToAlarm] at hahead
    rw [microsToAlarm, r280Run_cfg, halarm]
    omega

/-- With no cycle to go the alarm fires, at the first cycle of its microsecond (44_timer.md R225). -/
theorem FiresIn.fires {s : State} (h : FiresIn 0 s) :
    fires s = true ∧ s.presc = 0 ∧ s.time = s.alarm := by
  have hahead := h.ahead
  have hlt := h.inv.presc_range
  have hzero : microsToAlarm s = 0 := by
    by_contra hpos
    have hmul := Nat.mul_le_mul_right s.cfg.clkPerUs (Nat.one_le_iff_ne_zero.2 hpos)
    omega
  have htime : s.time = s.alarm := by
    have hsub : s.alarm - s.time = 0 := BitVec.eq_of_toNat_eq hzero
    exact (sub_eq_zero.1 hsub).symm
  rw [hzero] at hahead
  exact ⟨fires_iff.2 ⟨h.armed, htime, by simp [h.quiet.disabling]⟩, by omega, htime⟩

/-- The fire makes the firing pending, one cycle into its microsecond, with the deadline as it was
(44_timer.md R224). -/
theorem FiresIn.fired {s : State} (h : FiresIn 0 s) :
    (r280 s).pending = true ∧ (r280 s).presc = 1 ∧ (r280 s).time = (r280 s).alarm := by
  obtain ⟨hfire, hpresc, htime⟩ := h.fires
  have hclk := s.cfg.two_le_clkPerUs
  have hwrap : ¬s.presc = s.cfg.clkPerUs - 1 := by omega
  have hstart := h.not_starts
  have hen := h.quiet.enabling
  have hdis := h.quiet.disabling
  rw [h.quiet.r280_eq_r280Run]
  refine ⟨by simp [hfire, hstart, hen, hdis], by rw [r280Run_presc, if_neg hwrap, hpresc], ?_⟩
  rw [r280Run_time, if_neg hwrap, htime]
  simp [hstart, hen]

/-- The alarm comes nearer edge by edge, and no tick starts meanwhile. -/
theorem FiresIn.iterate {j k : Nat} {s : State} (h : FiresIn (k + j) s) :
    FiresIn k (r280^[j] s) ∧ QuietRun j s (r280^[j] s) := by
  induction j generalizing k with
  | zero => exact ⟨h, quietRun_zero h.quiet h.inv⟩
  | succ j ih =>
    obtain ⟨hfires, hrun⟩ := ih (k := k + 1) (by rwa [Nat.add_right_comm])
    rw [Function.iterate_succ_apply']
    exact ⟨hfires.next, hrun.next hfires.not_starts⟩

theorem FiresIn.fires_at {k : Nat} {s : State} (h : FiresIn k s) :
    Machine.fires (r280^[k] s) = true ∧ (r280^[k] s).presc = 0 := by
  obtain ⟨hfires, -⟩ := FiresIn.iterate (k := 0) (by rwa [Nat.zero_add])
  obtain ⟨hfire, hpresc, -⟩ := hfires.fires
  exact ⟨hfire, hpresc⟩

/-- When the edge from `s` leaves an alarm that fires in `k` edges, no edge from there to the fire starts a
tick. -/
theorem FiresIn.not_starts_before {k n : Nat} {s : State} (h : FiresIn k (r280 s)) (hpos : 0 < n)
    (hn : n ≤ k + 1) : startsTick (r280^[n] s) = false := by
  obtain ⟨j, rfl⟩ := Nat.exists_eq_add_of_le' hpos
  have hj : j ≤ k := Nat.le_of_succ_le_succ hn
  obtain ⟨hfires, -⟩ := FiresIn.iterate (j := j) (k := k - j) (by rwa [Nat.sub_add_cancel hj])
  exact hfires.not_starts

/-- A tick that starts one edge after its fire, in the microsecond of its deadline, under a quiet host. -/
structure OnTimeTick (s : State) : Prop where
  inv : Inv s
  quiet : HostQuiet s
  starts : startsTick s = true
  time : s.time = s.alarm
  presc : s.presc = 1

theorem startsTick_of_pending {s : State} (hquiet : HostQuiet s) (hinv : Inv s) (hpending : s.pending = true)
    (hidle : s.busy = false) : startsTick s = true :=
  startsTick_iff.2 ⟨hinv.pending_enabled hpending, hpending, hidle, by simp [hquiet.disabling]⟩

/-- If the alarm fires in `k` edges and the frame in progress has ended one edge later, that edge starts an
on-time tick (44_timer.md R227). -/
theorem FiresIn.onTimeTick {k : Nat} {s : State} (h : FiresIn k s) (hleft : cyclesLeft s ≤ k + 1) :
    OnTimeTick (r280^[k + 1] s) ∧ Unticked s (r280^[k + 1] s) := by
  obtain ⟨hfires, hrun⟩ := FiresIn.iterate (k := 0) (by rwa [Nat.zero_add])
  obtain ⟨hpending, hpresc, htime⟩ := hfires.fired
  obtain ⟨hquiet, hinv, hkept, hleft'⟩ := hrun.next hfires.not_starts
  have hidle : (r280 (r280^[k] s)).busy = false := by
    rw [← cyclesLeft_eq_zero_iff hinv, hleft']
    omega
  rw [Function.iterate_succ_apply']
  exact ⟨⟨hinv, hquiet, startsTick_of_pending hquiet hinv hpending hidle, htime, hpresc⟩, hkept⟩

/-- A deadline written at an edge fires its delay later, to the cycle: the edge itself is the first of those
cycles, and the prescaler was already some way into its microsecond. -/
theorem firesIn_of_deadline {s : State} {delay : Nat} (hinv : Inv s) (hrst : s.input.rst = false)
    (hquiet : HostQuiet (r280 s)) (harmed : (r280Run s).armed = true) (hpos : 1 ≤ delay)
    (hdelay : delay ≤ 2 ^ 32 - 1) (halarm : (r280Run s).alarm = deadline s.time delay) :
    FiresIn (delay * s.cfg.clkPerUs - (s.presc + 1)) (r280 s) := by
  have hcycles := micros_mul_clk_r280Run hinv.presc_range (armed_alarm_ne harmed)
  have hlt := hinv.presc_range
  have hmul := Nat.mul_le_mul_right s.cfg.clkPerUs hpos
  refine ⟨hquiet, hinv.next, ?_, ?_⟩ <;> rw [r280_of_not_rst hrst]
  · exact harmed
  · rw [microsToAlarm, r280Run_cfg]
    rw [halarm, toNat_deadline_sub s.time hdelay, ← halarm] at hcycles
    omega

/-! ### A disabled block, from an enabling edge to the first tick, and from tick to tick (44_timer.md R232, R233;
70_reset_and_hazards.md R322) -/

/-- A disabled block is neither armed nor waiting for a tick (10_state.md R43). -/
theorem Inv.disabled {s : State} (h : Inv s) (hdisabled : s.enable = false) :
    startsTick s = false ∧ s.armed = false ∧ s.pending = false := by
  refine ⟨by simp [startsTick, hdisabled], ?_, ?_⟩ <;> by_contra hn
  · simp [h.armed_enabled (by simpa using hn)] at hdisabled
  · simp [h.pending_enabled (by simpa using hn)] at hdisabled

/-- Settles O53: a disabled block starts no tick at any edge, so every edge keeps it disabled and the waveform as
it is. -/
theorem disabledBlockStaysIdle : Obligations.DisabledBlockStaysIdle := by
  unfold Obligations.DisabledBlockStaysIdle
  intro s k hinv hdisabled hquiet
  have hrun : QuietRun k s (r280^[k] s) := by
    induction k with
    | zero => exact quietRun_zero hquiet hinv
    | succ k ih =>
      rw [Function.iterate_succ_apply']
      exact ih.next (ih.inv.disabled (ih.kept.enable.trans hdisabled)).1
  have hen := hrun.kept.enable.trans hdisabled
  obtain ⟨hstart, harmed, hpending⟩ := hrun.inv.disabled hen
  obtain ⟨-, hphase, hseg, hidx, halarm, -, hword, hvalid, hmissed⟩ := hrun.kept
  exact ⟨_, after_iterate k s, hstart, hen, harmed, hpending, hphase, hseg, hidx, halarm, hmissed, hword, hvalid⟩

/-- The enabling write arms the alarm one period ahead (44_timer.md R230). -/
theorem firesIn_of_enabling {s : State} (hinv : Inv s) (hrst : s.input.rst = false)
    (hquiet : HostQuiet (r280 s)) (hen : enabling s = true) :
    FiresIn (s.cfg.periodUs * s.cfg.clkPerUs - (s.presc + 1)) (r280 s) ∧
      (r280 s).alarm = deadline s.time s.cfg.periodUs := by
  have hdelay := s.cfg.delay_le
  obtain ⟨-, -, hdisabled⟩ := enabling_iff.1 hen
  have hdis : disabling s = false := by simp [disabling, hdisabled]
  have halarm : (r280Run s).alarm = deadline s.time s.cfg.periodUs := by simp [hen]
  exact ⟨firesIn_of_deadline hinv hrst hquiet (by simp [hen, hdis]) s.cfg.one_le_periodUs (by omega) halarm,
    by rw [r280_of_not_rst hrst, halarm]⟩

/-- Settles O54: the enabling edge leaves an alarm that fires at edge `n`, and the frame in progress, if there is
one, has ended at the edge after it. -/
theorem firstTickComesOnePeriodAfterEnabling : Obligations.FirstTickComesOnePeriodAfterEnabling := by
  unfold Obligations.FirstTickComesOnePeriodAfterEnabling
  intro s i is n hinv hinputs hrst hen hscript hn hframe
  have hrst' : s.input.rst = false := by simpa [State.input, hinputs] using hrst
  have hquiet : HostQuiet (r280 s) := by
    intro j hj
    rw [r280_inputs, hinputs] at hj
    exact hscript j hj
  obtain ⟨-, -, hdisabled⟩ := enabling_iff.1 hen
  have hstart : startsTick s = false := by simp [startsTick, hdisabled]
  have hlt := hinv.presc_range
  have hperiod := Nat.mul_le_mul_right s.cfg.clkPerUs s.cfg.one_le_periodUs
  obtain ⟨k, rfl⟩ : ∃ k, n = k + 1 := Nat.exists_eq_add_of_le' (by omega)
  obtain ⟨hfires, halarm⟩ := firesIn_of_enabling hinv hrst' hquiet hen
  rw [← hn, show k + 1 + s.presc - (s.presc + 1) = k by omega] at hfires
  have hleft : cyclesLeft (r280 s) ≤ k + 1 := by
    rw [r280_of_not_rst hrst', cyclesLeft_r280Run hstart]
    cases hbusy : s.busy
    · rw [cyclesLeft_of_idle hbusy]
      omega
    · have hends := hframe hbusy
      rw [cyclesLeft_of_busy hbusy]
      omega
  obtain ⟨hfire, hpresc⟩ := hfires.fires_at
  obtain ⟨htick, hkept⟩ := hfires.onTimeTick hleft
  refine ⟨?noStart, ⟨_, after_iterate (k + 1) s, hfire, hpresc⟩,
    ⟨_, after_iterate (k + 2) s, htick.starts, htick.time, htick.presc, ?time⟩⟩
  case noStart =>
    intro m t hm hafter
    obtain rfl := after_iff.1 hafter
    obtain rfl | hpos := Nat.eq_zero_or_pos m
    · exact hstart
    · exact hfires.not_starts_before hpos (by omega)
  case time =>
    have htime := (htick.time.trans hkept.alarm).trans halarm
    exact (congrArg BitVec.toNat htime).trans (BitVec.toNat_ofNat ..)

/-- After an on-time tick the alarm fires at the edge before the tick's delay has passed. -/
theorem OnTimeTick.firesIn {s : State} (h : OnTimeTick s) :
    ∃ k, r280Delay s * s.cfg.clkPerUs = k + 2 ∧ FiresIn k (r280 s) ∧
      (r280 s).alarm = deadline s.time (r280Delay s) := by
  obtain ⟨hlo, hhi⟩ := r280Delay_range s
  obtain ⟨hen, hdis, -⟩ := startsTick_excludes h.starts
  have hpos := s.cfg.one_le_periodUs.trans hlo
  have hmul := Nat.mul_le_mul hpos s.cfg.two_le_clkPerUs
  have halarm : (r280Run s).alarm = deadline s.time (r280Delay s) := by simp [h.starts, hen]
  have hfires := firesIn_of_deadline h.inv h.quiet.noReset.input_rst h.quiet.next
    (by simp [h.starts, hen, hdis]) hpos hhi halarm
  rw [h.presc] at hfires
  exact ⟨_, by omega, hfires, by rw [h.quiet.r280_eq_r280Run, halarm]⟩

/-- Where the tick's frame, if it sends one, ends before its delay has passed, the next tick starts with the
delay, again on time. -/
theorem OnTimeTick.next {s : State} (h : OnTimeTick s)
    (hframe : s.idx.toNat < s.len → s.cfg.xferCycles < r280Delay s * s.cfg.clkPerUs) :
    OnTimeTick (r280^[r280Delay s * s.cfg.clkPerUs] s) ∧
      Unticked (r280 s) (r280^[r280Delay s * s.cfg.clkPerUs] s) := by
  obtain ⟨k, hk, hfires, -⟩ := h.firesIn
  have hleft : cyclesLeft (r280 s) ≤ k + 1 := by
    rw [h.quiet.r280_eq_r280Run, cyclesLeft_of_tick h.starts]
    split
    case isTrue hlt =>
      have hends := hframe hlt
      omega
    case isFalse => omega
  rw [hk]
  exact hfires.onTimeTick hleft

/-- Settles O55: the tick leaves an alarm that fires one edge before its delay has passed, and then starts the
next on-time tick. -/
theorem onTimeTicksAreExactlyTheDelayApart : Obligations.OnTimeTicksAreExactlyTheDelayApart := by
  unfold Obligations.OnTimeTicksAreExactlyTheDelayApart
  rintro s _ hinv hquiet hstart htime hpresc rfl hframe
  have htick : OnTimeTick s := ⟨hinv, hquiet, hstart, htime, hpresc⟩
  obtain ⟨k, hk, hfires, halarm⟩ := htick.firesIn
  obtain ⟨hnext, hkept⟩ := htick.next hframe
  refine ⟨?between, ⟨_, ?fire, hfires.fires_at.1⟩,
    ⟨_, after_iterate _ s, hnext.starts, hnext.time, hnext.presc, ?time⟩⟩
  case between =>
    intro n t hpos hn hafter
    obtain rfl := after_iff.1 hafter
    exact hfires.not_starts_before hpos (by omega)
  case fire =>
    rw [hk]
    exact after_iterate (k + 1) s
  case time => rw [hnext.time, hkept.alarm, halarm, deadline, BitVec.toNat_ofNat]

end Sys2Proof.Machine

/-! ## A frame so long that `TIME` wraps to the deadline again (70_reset_and_hazards.md R333 (c)) -/

namespace Sys2Proof.Machine

/-- While a frame is in progress no edge starts a tick. -/
theorem quietRun_of_frame {j : Nat} {s : State} (hquiet : HostQuiet s) (hinv : Inv s) (hj : j ≤ cyclesLeft s) :
    QuietRun j s (r280^[j] s) := by
  induction j with
  | zero => exact quietRun_zero hquiet hinv
  | succ j ih =>
    have hrun := ih (Nat.le_of_succ_le hj)
    have hbusy : (r280^[j] s).busy = true := by
      have hleft : cyclesLeft (r280^[j] s) ≠ 0 := by rw [hrun.left]; omega
      rw [ne_eq, cyclesLeft_eq_zero_iff hrun.inv] at hleft
      simpa using hleft
    rw [Function.iterate_succ_apply']
    exact hrun.next (startsTick_of_busy hbusy)

/-- An emitting tick's deadline stands until the next tick can start, one edge after its frame. -/
theorem alarm_after_frame {s : State} (hquiet : HostQuiet s) (hinv : Inv s) (hstart : startsTick s = true)
    (hlt : s.idx.toNat < s.len) :
    (r280^[s.cfg.xferCycles + 1] s).alarm = deadline s.time s.cfg.periodUs := by
  obtain ⟨hen, -, -⟩ := startsTick_excludes hstart
  have hleft : cyclesLeft (r280 s) = s.cfg.xferCycles := by
    rw [hquiet.r280_eq_r280Run, cyclesLeft_of_tick hstart, if_pos hlt]
  have hrun := quietRun_of_frame hquiet.next hinv.next hleft.ge
  rw [Function.iterate_succ_apply, hrun.kept.alarm, hquiet.r280_eq_r280Run]
  simp [hen, hstart, r280Delay_of_lt hlt]

/-- Parameters that R10 admits, with a period of 13 microseconds of 2 cycles each and a frame of 2^33 + 25
cycles. -/
def longFrameParams : Params where
  sampleRateHz := 50000
  periodUs := 13
  restUs := 0
  sineBits := 8
  ctrlNibble := 0
  swoopLen := 2
  chirpLen := 2
  rampLen := 1
  restLen := 0
  clkPerUs := 2
  sclkHalf := 260301049
  images := .concatenated [0, 0, 0, 0]

def longFrameConfig : Config := ⟨longFrameParams, by decide⟩

/-- An on-time emitting tick of that configuration. -/
def longFrameTick : State :=
  { State.resetOf longFrameConfig [] with enable := true, pending := true, presc := 1 }

theorem inv_longFrameTick : Inv longFrameTick := by constructor <;> decide

/-- Refutes O56: `SCLK_HALF` has no bound, and with a frame of 2^33 + 25 cycles `TIME` has advanced by 2^32 + 13
at the next tick, one turn and a period, so it equals the deadline and the tick is not counted as late. -/
theorem not_overrunningFramesSpaceTheTicks : ¬ Obligations.OverrunningFramesSpaceTheTicks := by
  unfold Obligations.OverrunningFramesSpaceTheTicks
  intro h
  have hquiet : HostQuiet longFrameTick := by intro i hi; cases hi
  obtain ⟨-, v, hafter, -, hlate⟩ := h longFrameTick inv_longFrameTick hquiet (by decide) (by decide) (by decide)
  obtain ⟨u, hafter', -, -, htime⟩ :=
    timeBaseAdvances_after (longFrameTick.cfg.xferCycles + 1) longFrameTick hquiet.noReset (by decide)
  obtain rfl := (after_iff.1 hafter).symm.trans (after_iff.1 hafter')
  obtain rfl := after_iff.1 hafter
  have halarm := alarm_after_frame hquiet inv_longFrameTick (by decide) (by decide)
  refine hlate (by decide) (BitVec.eq_of_toNat_eq ?_)
  rw [htime, halarm]
  decide

end Sys2Proof.Machine

/-! ## The waveform cycle: on-time ticks from one first tick of SWOOP, or of the buffer, to the next
(42_sequencer.md R169, R170) -/

namespace Sys2Proof.Machine

/-- The increments that a segment's ticks add to the phase; none under the concatenated policy
(42_sequencer.md R163, R166). -/
def phaseIncs (c : Config) (seg : Segment) : List Word :=
  match c.images with
  | .segmented t => t.inc seg
  | .concatenated _ => []

/-- From the on-time tick of `s` to that of `v`, `n` edges later, with no tick missed. -/
structure TickRun (n : Nat) (s v : State) : Prop where
  after : r280^[n] s = v
  tick : OnTimeTick v
  cfg : v.cfg = s.cfg
  missed : v.missed = s.missed

theorem TickRun.trans {m n : Nat} {s u v : State} (h : TickRun m s u) (h' : TickRun n u v) :
    TickRun (m + n) s v where
  after := by rw [Nat.add_comm, Function.iterate_add_apply, h.after, h'.after]
  tick := h'.tick
  cfg := h'.cfg.trans h.cfg
  missed := h'.missed.trans h.missed

/-- Where the frame fits the period, the next on-time tick starts with the delay of this one, and finds the
waveform as this one left it. -/
theorem exists_next_tick {s : State} (h : OnTimeTick s) (hfits : FrameFits s.cfg) :
    ∃ v, TickRun (r280Delay s * s.cfg.clkPerUs) s v ∧ Unticked (r280Run s) v := by
  have hdelay := Nat.mul_le_mul_right s.cfg.clkPerUs (r280Delay_range s).1
  obtain ⟨htick, hkept⟩ := h.next fun _ => hfits.trans_le hdelay
  have hmissed : (r280Run s).missed = s.missed := by simp [h.time]
  rw [h.quiet.r280_eq_r280Run] at hkept
  exact ⟨_, ⟨rfl, htick, hkept.cfg, hkept.missed.trans hmissed⟩, hkept⟩

theorem phaseAfter_append (ph : Word) (is js : List Word) :
    phaseAfter ph (is ++ js) = phaseAfter (phaseAfter ph is) js := List.foldl_append

theorem length_phaseIncs {c : Config} (hp : c.policy = .segmented) (seg : Segment) :
    (phaseIncs c seg).length = c.regionLen seg := by
  obtain ⟨tb, hi⟩ := c.policy_segmented_iff.1 hp
  obtain ⟨-, hinc, -⟩ := c.tables_lengths tb hi
  simp [phaseIncs, hi, hinc, Params.regionLen, hp]

theorem phaseIncs_of_concatenated {c : Config} (hp : c.policy = .concatenated) (seg : Segment) :
    phaseIncs c seg = [] := by
  obtain ⟨pcm, hi⟩ := c.policy_concatenated_iff.1 hp
  simp [phaseIncs, hi]

/-- A segment's increments are as many as its samples, or there are none. -/
theorem length_phaseIncs_le (c : Config) (seg : Segment) : (phaseIncs c seg).length ≤ c.regionLen seg := by
  cases hp : c.policy with
  | segmented => exact (length_phaseIncs hp seg).le
  | concatenated => simp [phaseIncs_of_concatenated hp]

/-- The phase that a `SEG_EMIT` writes has the increment at its index added (42_sequencer.md R163). -/
theorem r280Phase_eq_phaseAfter {s : State} (hp : s.cfg.policy = .segmented) (hlt : s.idx.toNat < s.len) :
    r280Phase s = phaseAfter s.phase (((phaseIncs s.cfg s.seg).drop s.idx.toNat).take 1) := by
  obtain ⟨tb, hi⟩ := s.cfg.policy_segmented_iff.1 hp
  have hinc : s.idx.toNat < (tb.inc s.seg).length := by
    have hlen := length_phaseIncs hp s.seg
    simp only [phaseIncs, hi] at hlen
    exact hlen.symm ▸ hlt
  rw [r280Phase_eq_phaseAdd hi (List.getElem?_eq_getElem hinc)]
  simp only [phaseIncs, hi, List.drop_eq_getElem_cons hinc]
  rfl

/-- An emitting tick adds the increment at its index, if the policy has increments (42_sequencer.md R163,
R166). -/
theorem phase_of_emit {s : State} (hstart : startsTick s = true) (hlt : s.idx.toNat < s.len) :
    (r280Run s).phase = phaseAfter s.phase (((phaseIncs s.cfg s.seg).drop s.idx.toNat).take 1) := by
  cases hp : s.cfg.policy with
  | segmented => rw [r280Run_phase, if_pos ⟨⟨hstart, hlt⟩, hp⟩, r280Phase_eq_phaseAfter hp hlt]
  | concatenated => simp [phaseIncs_of_concatenated hp, phaseAfter, hp]

/-- An on-time emitting tick: the next one comes a period later at the next index, the increment added. -/
theorem exists_tick_after_emit {s : State} (h : OnTimeTick s) (hfits : FrameFits s.cfg)
    (hlt : s.idx.toNat < s.len) :
    ∃ v, TickRun (s.cfg.periodUs * s.cfg.clkPerUs) s v ∧ v.seg = s.seg ∧
      v.idx.toNat = s.idx.toNat + 1 ∧
      v.phase = phaseAfter s.phase (((phaseIncs s.cfg s.seg).drop s.idx.toNat).take 1) := by
  obtain ⟨v, hrun, hkept⟩ := exists_next_tick h hfits
  rw [r280Delay_of_lt hlt] at hrun
  refine ⟨v, hrun, ?_, ?_, ?_⟩
  · rw [hkept.seg]; simp [hlt]
  · rw [hkept.idx, r280Run_idx, if_pos ⟨h.starts, hlt⟩]
    exact toNat_emitTick_idx hlt 0 0
  · rw [hkept.phase, phase_of_emit h.starts hlt]

/-- The delay of the transition tick at the end of a segment (42_sequencer.md R164, R165, R167). -/
def transitionDelay (c : Config) (seg : Segment) : Nat :=
  match c.policy, seg with
  | .segmented, .swoop => c.periodUs
  | .segmented, .chirp => c.periodUs + c.restUs
  | .concatenated, _ => c.periodUs + c.restUs

theorem r280Delay_of_end {s : State} (hend : s.len ≤ s.idx.toNat) :
    r280Delay s = transitionDelay s.cfg s.seg := if_neg (Nat.not_lt.2 hend)

/-- An on-time transition tick: the next tick comes with its delay, at the start of the next segment. -/
theorem exists_tick_after_transition {s : State} (h : OnTimeTick s) (hfits : FrameFits s.cfg)
    (hend : s.len ≤ s.idx.toNat) :
    ∃ v, TickRun (transitionDelay s.cfg s.seg * s.cfg.clkPerUs) s v ∧ v.seg = nextSeg s.cfg s.seg ∧
      v.idx = 0 ∧ v.phase = s.phase := by
  obtain ⟨v, hrun, hkept⟩ := exists_next_tick h hfits
  rw [r280Delay_of_end hend] at hrun
  have hnlt := Nat.not_lt.2 hend
  refine ⟨v, hrun, ?_, ?_, ?_⟩
  · rw [hkept.seg]; simp [h.starts, hnlt]
  · rw [hkept.idx]; simp [h.starts, hnlt]
  · rw [hkept.phase]; simp [hnlt]

/-- `m` emitting ticks in a row, a period apart, within the region. -/
theorem exists_tick_after_emits {s : State} (h : OnTimeTick s) (hfits : FrameFits s.cfg) (m : Nat)
    (hm : s.idx.toNat + m ≤ s.len) :
    ∃ v, TickRun (m * (s.cfg.periodUs * s.cfg.clkPerUs)) s v ∧ v.seg = s.seg ∧
      v.idx.toNat = s.idx.toNat + m ∧
      v.phase = phaseAfter s.phase (((phaseIncs s.cfg s.seg).drop s.idx.toNat).take m) := by
  induction m with
  | zero => exact ⟨s, ⟨by rw [Nat.zero_mul]; rfl, h, rfl, rfl⟩, rfl, rfl, rfl⟩
  | succ m ih =>
    obtain ⟨u, hu, hseg, hidx, hphase⟩ := ih (by omega)
    have hlen : u.len = s.len := by simp only [State.len, hu.cfg, hseg]
    obtain ⟨v, hv, hseg', hidx', hphase'⟩ := exists_tick_after_emit hu.tick (hu.cfg ▸ hfits) (by omega)
    rw [hu.cfg] at hv
    refine ⟨v, Nat.succ_mul .. ▸ hu.trans hv, hseg'.trans hseg, by omega, ?_⟩
    rw [hphase', hphase, hu.cfg, hseg, hidx, ← phaseAfter_append, ← List.drop_drop, ← List.take_add]

/-- From the first tick of a region, on time, to the first tick after it: a period for each sample, and the
delay of the transition. -/
theorem exists_tick_after_region {s : State} (h : OnTimeTick s) (hfits : FrameFits s.cfg) (hidx : s.idx = 0) :
    ∃ v, TickRun ((s.len * s.cfg.periodUs + transitionDelay s.cfg s.seg) * s.cfg.clkPerUs) s v ∧
      v.seg = nextSeg s.cfg s.seg ∧ v.idx = 0 ∧
      v.phase = phaseAfter s.phase (phaseIncs s.cfg s.seg) := by
  have hzero : s.idx.toNat = 0 := by rw [hidx]; rfl
  obtain ⟨u, hu, hseg, hend, hphase⟩ := exists_tick_after_emits h hfits s.len (by omega)
  have hlen : u.len = s.len := by simp only [State.len, hu.cfg, hseg]
  obtain ⟨v, hv, hseg', hidx', hphase'⟩ := exists_tick_after_transition hu.tick (hu.cfg ▸ hfits) (by omega)
  rw [hu.cfg, hseg] at hv hseg'
  refine ⟨v, ?_, hseg', hidx', ?_⟩
  · rw [Nat.add_mul, Nat.mul_assoc]
    exact hu.trans hv
  · have hall : (phaseIncs s.cfg s.seg).length ≤ s.len := length_phaseIncs_le ..
    rw [hphase', hphase, hzero, List.drop_zero, List.take_of_length_le hall]

/-- Settles O57: the cycle is the region of SWOOP and then that of CHIRP. -/
theorem segmentedCycleRepeats : Obligations.SegmentedCycleRepeats := by
  unfold Obligations.SegmentedCycleRepeats
  intro s tb hi hfits hinv hquiet hstart htime hpresc hseg hidx
  have hp := s.cfg.policy_segmented_iff.2 ⟨tb, hi⟩
  obtain ⟨u, hu, hseg', hidx', hphase'⟩ :=
    exists_tick_after_region ⟨hinv, hquiet, hstart, htime, hpresc⟩ hfits hidx
  obtain ⟨v, hv, hseg'', hidx'', hphase''⟩ := exists_tick_after_region hu.tick (hu.cfg ▸ hfits) hidx'
  have hchirp : u.seg = .chirp := by simp [hseg', nextSeg, hp, hseg]
  have hrun := hu.trans hv
  have hlens : s.len = s.cfg.swoopLen ∧ u.len = s.cfg.chirpLen := by
    simp [State.len, Params.regionLen, Params.segmentLen, hu.cfg, hp, hseg, hchirp]
  have hedges : (s.len * s.cfg.periodUs + transitionDelay s.cfg s.seg) * s.cfg.clkPerUs +
      (u.len * u.cfg.periodUs + transitionDelay u.cfg u.seg) * u.cfg.clkPerUs =
      ((s.cfg.swoopLen + s.cfg.chirpLen + 2) * s.cfg.periodUs + s.cfg.restUs) * s.cfg.clkPerUs := by
    rw [hlens.1, hlens.2, hu.cfg, hseg, hchirp]
    simp only [transitionDelay, hp]
    ring
  rw [hedges] at hrun
  refine ⟨v, after_iff.2 hrun.after, hrun.tick.starts, hrun.tick.time, hrun.tick.presc, ?_, hidx'', ?_, hrun.missed⟩
  · simp [hseg'', hu.cfg, nextSeg, hp, hchirp]
  · rw [hphase'', hphase', hu.cfg, hchirp, hseg]
    simp only [phaseIncs, hi]
    rfl

/-- Settles O58: the cycle is the one region of the concatenated buffer. -/
theorem concatenatedCycleRepeats : Obligations.ConcatenatedCycleRepeats := by
  unfold Obligations.ConcatenatedCycleRepeats
  intro s hp hfits hinv hquiet hstart htime hpresc hidx
  obtain ⟨v, hv, hseg, hidx', hphase⟩ :=
    exists_tick_after_region ⟨hinv, hquiet, hstart, htime, hpresc⟩ hfits hidx
  have hedges : (s.len * s.cfg.periodUs + transitionDelay s.cfg s.seg) * s.cfg.clkPerUs =
      ((s.cfg.songLen + 1) * s.cfg.periodUs + s.cfg.restUs) * s.cfg.clkPerUs := by
    simp only [State.len, Params.regionLen, transitionDelay, hp]
    ring
  rw [hedges] at hv
  refine ⟨v, after_iff.2 hv.after, hv.tick.starts, hv.tick.time, hv.tick.presc,
    hseg.trans (nextSeg_of_concatenated hp _), hidx', ?_, hv.missed⟩
  rw [hphase, phaseIncs_of_concatenated hp]
  rfl

end Sys2Proof.Machine

/-! ## Configurations: what is built, and what is refused under which name (00_scope.md R10;
60_exceptions.md R301) -/

namespace Sys2Proof

/-- The regions of 00_scope.md R10 (f) and the image lengths of (g), for the images that a configuration holds. -/
theorem Config.regions_and_images (c : Config) :
    match c.images with
    | .segmented t =>
      c.swoopLen ≤ 2 ^ 24 - 1 ∧ c.chirpLen ≤ 2 ^ 24 - 1 ∧ t.sine.length = 2 ^ c.sineBits ∧
      t.incSwoop.length = c.swoopLen ∧ t.incChirp.length = c.chirpLen ∧
      t.envSwoop.length = c.swoopLen ∧ t.envChirp.length = c.chirpLen
    | .concatenated pcm =>
      c.swoopLen + c.restLen + c.chirpLen ≤ 2 ^ 24 - 1 ∧
      pcm.length = c.swoopLen + c.restLen + c.chirpLen := by
  have hswoop := c.regionLen_le .swoop
  have hchirp := c.regionLen_le .chirp
  split
  case h_1 t hi =>
    obtain ⟨hsine, hinc, henv⟩ := c.tables_lengths t hi
    have hp := c.policy_segmented_iff.2 ⟨t, hi⟩
    simp only [Params.regionLen, hp, Params.segmentLen] at hswoop hchirp
    exact ⟨hswoop, hchirp, hsine, hinc .swoop, hinc .chirp, henv .swoop, henv .chirp⟩
  case h_2 pcm hi =>
    have hp := c.policy_concatenated_iff.2 ⟨pcm, hi⟩
    simp only [Params.regionLen, hp, Params.songLen] at hswoop
    exact ⟨hswoop, c.pcm_length pcm hi⟩

/-- What a record must meet for a block to be built, and what the block holds of it (00_scope.md R7, R10). -/
theorem Config.build_ok {r : ConfigRecord} [Decidable r.IncrementsFit] {c : Config}
    (h : Config.build r = .ok c) : c.toParams = r.toParams ∧ r.IncrementsFit := by
  obtain ⟨k, -, he⟩ | ⟨hbroken, c', hc', he⟩ := Config.build_cases r
  · rw [he] at h; cases h
  · obtain rfl : c' = c := Except.ok.inj (he.symm.trans h)
    exact ⟨hc', ((ConfigRecord.broken_eq_none_iff r).1 hbroken).2⟩

/-- Settles O8: a built configuration breaks none of (a) to (g), and a record is built only if its increments
fit (h). -/
theorem builtConfigurationsMeetTheConstraints : Obligations.BuiltConfigurationsMeetTheConstraints := by
  unfold Obligations.BuiltConfigurationsMeetTheConstraints
  refine ⟨fun c => ?_, fun r _ c hbuild => ?_⟩
  · obtain ⟨⟨hperiod, hdelay⟩, hclk, ⟨hhalf, hserial⟩, ⟨hsine, hsine'⟩, ⟨hramp, hswoop, hchirp⟩, -, -⟩ :=
      c.constraints
    exact ⟨hperiod, hdelay, hclk, hhalf, hserial, hsine, hsine', hramp, hswoop, hchirp, c.regions_and_images⟩
  · obtain ⟨hparams, hfit⟩ := Config.build_ok hbuild
    exact ⟨hparams, hfit⟩

/-- Settles O9: building answers the name of the broken constraint, or the block that boots. -/
theorem brokenParametersAreRefusedByName : Obligations.BrokenParametersAreRefusedByName := by
  unfold Obligations.BrokenParametersAreRefusedByName
  intro r _ script
  unfold Machine.State.boot
  obtain ⟨k, hbroken, he⟩ | ⟨hbroken, c, hparams, he⟩ := Config.build_cases r
  · rw [he, hbroken]
    exact ⟨fun j hj => by rw [Option.some.inj hj], fun h => by cases h⟩
  · rw [he, hbroken]
    exact ⟨fun j hj => (by cases hj), fun _ => ⟨c, hparams, rfl⟩⟩

/-- A generator refuses its table where the rate is 0 or an entry is out of range (40_tables.md R118). -/
theorem ConfigRecord.not_incrementsFit_iff {r : ConfigRecord} (hgen : r.increments = .generated) :
    ¬r.IncrementsFit ↔
      Machine.SwoopGenerates r.toWaveform r.sampleRateHz r.swoopLen (.error .incrementRange) ∨
      Machine.ChirpGenerates r.toWaveform r.sampleRateHz r.chirpLen (.error .incrementRange) := by
  simp only [ConfigRecord.IncrementsFit, hgen, forall_const, Machine.Waveform.IncrementsInRange,
    Machine.SwoopGenerates, Machine.ChirpGenerates, Machine.IncrementsGenerate, true_and]
  tauto

/-- Settles O60: where (a) to (g) hold, the record is broken exactly when its increments do not fit. -/
theorem outOfRangeIncrementsAreRefused : Obligations.OutOfRangeIncrementsAreRefused := by
  unfold Obligations.OutOfRangeIncrementsAreRefused
  intro r _ hgen hparams
  rw [← ConfigRecord.not_incrementsFit_iff hgen, ConfigRecord.broken, hparams]
  simp

end Sys2Proof

/-! ## Generated envelopes: their codes, the rise, the body and the fall (40_tables.md R120 to R123) -/

namespace Sys2Proof.Machine

theorem getElem?_tabulate {α : Type} (f : Nat → α) {k n : Nat} (hk : k < n) (i : Nat) :
    (tabulate f i n)[k]? = some (f (i + k)) := by
  induction n generalizing i k with
  | zero => omega
  | succ n ih =>
    cases k with
    | zero => rfl
    | succ k =>
      rw [tabulate, List.getElem?_cons_succ, ih (by omega), Nat.add_right_comm, Nat.add_assoc]

theorem getElem?_envTable {len i : Nat} (hi : i < len) (ramp : Nat) :
    (envTable len ramp)[i]? = some (envCode len ramp i) := by
  rw [envTable, getElem?_tabulate _ hi, Nat.zero_add]

/-- Settles O11: the code is the rounded shape, and entry `i` of the table is code `i`. -/
theorem envelopeCodeRoundsTheShape : Obligations.EnvelopeCodeRoundsTheShape := by
  unfold Obligations.EnvelopeCodeRoundsTheShape
  intro len ramp i hramp _ hi
  exact ⟨envCode_toNat_eq_roundHalfAway hramp len i, getElem?_envTable hi ramp⟩

/-- The code of step `k` of a ramp (40_tables.md R121). -/
def rampCode (ramp k : Nat) : Nat := (2 * k * 32768 + ramp) / (2 * ramp)

theorem toNat_envCode_rise {len ramp i : Nat} (hi : i < ramp) : (envCode len ramp i).toNat = rampCode ramp i := by
  have hle : rampCode ramp i ≤ 0x8000 := rampCode_le (by omega) hi.le
  rw [envCode, if_pos hi, BitVec.toNat_ofNat]
  exact Nat.mod_eq_of_lt (by unfold rampCode at hle; omega)

theorem envCode_body {len ramp i : Nat} (hlo : ramp ≤ i) (hhi : i < len - ramp) : envCode len ramp i = 0x8000 := by
  rw [envCode, if_neg (Nat.not_lt.2 hlo), if_pos hhi]
  rfl

theorem toNat_envCode_fall {len ramp i : Nat} (hramp : 1 ≤ ramp) (hlen : 2 * ramp ≤ len) (hlo : len - ramp ≤ i)
    (hi : i < len) : (envCode len ramp i).toNat = rampCode ramp (len - 1 - i) := by
  have hle : rampCode ramp (len - 1 - i) ≤ 0x8000 := rampCode_le hramp (by omega)
  rw [envCode, if_neg (by omega), if_neg (by omega), BitVec.toNat_ofNat]
  exact Nat.mod_eq_of_lt (by unfold rampCode at hle; omega)

theorem rampCode_zero {ramp : Nat} (hramp : 1 ≤ ramp) : rampCode ramp 0 = 0 := by
  unfold rampCode
  exact Nat.div_eq_of_lt (by omega)

/-- A ramp of at most 32768 steps has at least one code for each of them. -/
theorem rampCode_lt_succ {ramp : Nat} (hramp : 1 ≤ ramp) (hshort : ramp ≤ 32768) (k : Nat) :
    rampCode ramp k < rampCode ramp (k + 1) := by
  have hstep : rampCode ramp k + 1 = (2 * k * 32768 + ramp + 2 * ramp) / (2 * ramp) :=
    (Nat.add_div_right _ (by omega)).symm
  rw [← Nat.succ_le_iff, Nat.succ_eq_add_one, hstep]
  exact Nat.div_le_div_right (by omega)

/-- Such a ramp reaches the code of 1.0 at its last step only. -/
theorem rampCode_lt_one {ramp k : Nat} (hshort : ramp ≤ 32768) (hk : k < ramp) : rampCode ramp k < 0x8000 :=
  (rampCode_lt_succ (by omega) hshort k).trans_le (rampCode_le (by omega) hk)

/-- Settles O12: the codes of the ramp rise strictly up to 32768 samples, and the fall is the rise read backwards. -/
theorem envelopeRisesHoldsAndFalls : Obligations.EnvelopeRisesHoldsAndFalls := by
  unfold Obligations.EnvelopeRisesHoldsAndFalls
  intro len ramp hramp hlen
  refine ⟨?start, ?stop, fun i => envCode_body, fun i _ => envCode_toNat_le hramp len i,
    fun hshort => ⟨?rises, ?falls, ?body⟩, 1, by decide, by decide⟩
  case start =>
    apply BitVec.eq_of_toNat_eq
    rw [toNat_envCode_rise hramp, rampCode_zero hramp]
    rfl
  case stop =>
    apply BitVec.eq_of_toNat_eq
    rw [toNat_envCode_fall hramp hlen (by omega) (by omega), Nat.sub_self, rampCode_zero hramp]
    rfl
  case rises =>
    intro i hi
    rw [toNat_envCode_rise hi, toNat_envCode_rise (by omega)]
    exact rampCode_lt_succ hramp hshort i
  case falls =>
    intro i hlo hi
    rw [toNat_envCode_fall hramp hlen hlo (by omega), toNat_envCode_fall hramp hlen (by omega) hi]
    have hstep := rampCode_lt_succ hramp hshort (len - 1 - (i + 1))
    rwa [show len - 1 - (i + 1) + 1 = len - 1 - i by omega] at hstep
  case body =>
    intro i hi hcode
    have hone : (envCode len ramp i).toNat = 0x8000 := by rw [hcode]; rfl
    constructor <;> by_contra hn
    · rw [toNat_envCode_rise (by omega)] at hone
      exact (rampCode_lt_one hshort (by omega)).ne hone
    · rw [toNat_envCode_fall hramp hlen (by omega) hi] at hone
      exact (rampCode_lt_one hshort (by omega)).ne hone

end Sys2Proof.Machine

/-! ## Samples over a run: the sum of the increments, the rendered buffer, and reads outside the tables
(40_tables.md R125, R126; 41_phase_sine.md R146; 20_memory.md R62) -/

namespace Sys2Proof.Machine

/-- The phase after a run of increments is their sum, modulo 2^32 (41_phase_sine.md R140, R146). -/
theorem toNat_phaseAfter (ph : Word) (incs : List Word) :
    (phaseAfter ph incs).toNat = (ph.toNat + (incs.map BitVec.toNat).sum) % 2 ^ 32 := by
  induction incs generalizing ph with
  | nil => exact (Nat.mod_eq_of_lt ph.isLt).symm
  | cons inc incs ih =>
    have hcons : phaseAfter ph (inc :: incs) = phaseAfter (phaseAdd ph inc) incs := rfl
    rw [hcons, ih, phaseAdd, BitVec.toNat_add, Nat.mod_add_mod, List.map_cons, List.sum_cons, Nat.add_assoc]

/-- `m` samples in a row of the segment in force, below its end. -/
theorem repeatExec_segEmit {s : State} (hp : s.cfg.policy = .segmented) (m : Nat) (hm : s.idx.toNat + m ≤ s.len) :
    ∃ t, repeatExec (.segEmit s.seg) m s = .next t ∧
      t.phase = phaseAfter s.phase (((phaseIncs s.cfg s.seg).drop s.idx.toNat).take m) ∧
      t.idx.toNat = s.idx.toNat + m ∧ t.seg = s.seg ∧ t.cfg = s.cfg := by
  induction m generalizing s with
  | zero => exact ⟨s, rfl, rfl, rfl, rfl, rfl⟩
  | succ m ih =>
    have hlt : s.idx.toNat < s.len := by omega
    obtain ⟨ph, w, hsample, hexec⟩ := exec_segEmit_next hp hlt s.seg
    have hidx := toNat_emitTick_idx hlt ph w
    obtain ⟨hph, -⟩ := hsample.eq_r280 hlt
    rw [if_pos hp, r280Phase_eq_phaseAfter hp hlt] at hph
    obtain ⟨t, ht, hphase, hidx', hseg, hcfg⟩ := ih (s := emitTick ph w s) hp (by
      have hlen : (emitTick ph w s).len = s.len := rfl
      omega)
    refine ⟨t, ?_, ?_, by omega, hseg, hcfg⟩
    · rw [repeatExec, hexec, andThen_next]
      exact ht
    · rw [hphase, hidx, show (emitTick ph w s).phase = ph from rfl, hph, Nat.add_comm m 1, List.take_add,
        List.drop_drop, phaseAfter_append]
      rfl

/-- Settles O15: each executed sample consumes the next increment, by induction on the run. -/
theorem phaseIsTheSumOfTheIncrements : Obligations.PhaseIsTheSumOfTheIncrements := by
  unfold Obligations.PhaseIsTheSumOfTheIncrements
  intro s tb m hi hm
  have hp := s.cfg.policy_segmented_iff.2 ⟨tb, hi⟩
  have hlen : s.len = s.cfg.segmentLen s.seg := by simp [State.len, Params.regionLen, hp]
  obtain ⟨t, ht, hphase, hidx, hseg, hcfg⟩ := repeatExec_segEmit hp m (hlen ▸ hm)
  have hincs : phaseIncs s.cfg s.seg = tb.inc s.seg := by simp [phaseIncs, hi]
  exact ⟨t, ht, by rw [hphase, toNat_phaseAfter, hincs], hidx, hseg, hcfg⟩

/-- Entry `k` of a rendered segment is the sample at the phase after its first `k + 1` increments. -/
theorem getElem?_renderSegment (sine : List Sample) (shift : Nat) {k : Nat} {incs : List Word} {envs : List EnvCode} 
    {e : EnvCode} (hinc : k < incs.length) (henv : envs[k]? = some e) (ph : Word) :
    (renderSegment sine shift ph incs envs)[k]? = some (BitVec.ofNat 12
      (mag (rawSample (sine[sineIndex shift (phaseAfter ph (incs.take (k + 1)))]?.getD 0)) e)) := by
  induction k generalizing ph incs envs with
  | zero =>
    cases incs with
    | nil => simp at hinc
    | cons inc incs =>
      cases envs with
      | nil => simp at henv
      | cons e' envs =>
        obtain rfl := Option.some.inj henv
        rfl
  | succ k ih =>
    cases incs with
    | nil => simp at hinc
    | cons inc incs =>
      cases envs with
      | nil => simp at henv
      | cons e' envs => exact ih (by simpa using hinc) (by simpa using henv) (phaseAdd ph inc)

/-- Settles O14: the SWOOP entries come first, one for each increment, and the rest follows as zeros. -/
theorem renderedBufferMatchesTheSegmentedWaveform : Obligations.RenderedBufferMatchesTheSegmentedWaveform := by
  unfold Obligations.RenderedBufferMatchesTheSegmentedWaveform
  intro c t hi
  obtain ⟨-, hincs, henvs⟩ := c.tables_lengths t hi
  have hinc : t.incSwoop.length = c.swoopLen := hincs .swoop
  have henv : t.envSwoop.length = c.swoopLen := henvs .swoop
  have hrender : (renderSegment t.sine c.shift 0 t.incSwoop t.envSwoop).length = c.swoopLen := by
    rw [length_renderSegment _ _ _ _ _ (hinc.trans henv.symm), hinc]
  refine ⟨fun k hk => ⟨?_, by rw [toNat_dacWord, Nat.zero_mod, Nat.add_zero]⟩, fun k hk => ?_⟩
  · rw [pcmTable, List.append_assoc, List.getElem?_append_right (by omega), hrender, Nat.add_sub_cancel_left,
      List.getElem?_append_left (by rwa [List.length_replicate]), List.getElem?_replicate, if_pos hk]
  · obtain ⟨inc, e, raw, hinck, henvk, hsinek⟩ :=
      segSample_exists c t .swoop k (phaseAfter 0 (t.incSwoop.take k)) hi hk
    have hphase : phaseAdd (phaseAfter 0 (t.incSwoop.take k)) inc = phaseAfter 0 (t.incSwoop.take (k + 1)) := by
      have htake : t.incSwoop.take (k + 1) = t.incSwoop.take k ++ [inc] := by
        rw [List.take_add_one, show t.incSwoop[k]? = some inc from hinck]
        rfl
      rw [htake, phaseAfter_append]
      rfl
    have hlow : mag (rawSample raw) e < 2 ^ 12 := mag_rawSample_lt raw e
    rw [hphase] at hsinek
    refine ⟨_, _, BitVec.ofNat 12 (mag (rawSample raw) e), segSample_ok hi hinck henvk (hphase ▸ hsinek),
      hphase, ?_, by rw [BitVec.toNat_ofNat, Nat.mod_eq_of_lt hlow]⟩
    rw [pcmTable, List.append_assoc, List.getElem?_append_left (by omega),
      getElem?_renderSegment t.sine c.shift (incs := t.incSwoop) (envs := t.envSwoop) (by omega) henvk, hsinek]
    rfl

/-- Settles O21: the first read of an emitting operation answers the fault, and the operation passes it on. -/
theorem emittingOutsideTheTablesFaults : Obligations.EmittingOutsideTheTablesFaults := by
  unfold Obligations.EmittingOutsideTheTablesFaults
  constructor
  · intro s x h
    have hread : readInc s.cfg s.seg s.idx.toNat = .error (.romOutOfRange (incRom s.seg) s.idx.toNat) := by
      unfold readInc
      split
      case h_1 t hi =>
        have hp := s.cfg.policy_segmented_iff.2 ⟨t, hi⟩
        obtain ⟨-, hinc, -⟩ := s.cfg.tables_lengths t hi
        have hend : (t.inc s.seg).length ≤ s.idx.toNat := by
          simpa [hp, hinc] using h
        simp [romEntry, List.getElem?_eq_none hend]
      case h_2 => rfl
    simp only [exec, execSegEmit, segSample, hread]
    rfl
  · intro s x h
    have hread : readPcm s.cfg s.idx.toNat = .error (.romOutOfRange .pcmRom s.idx.toNat) := by
      unfold readPcm
      split
      case h_1 => rfl
      case h_2 pcm hi =>
        have hp := s.cfg.policy_concatenated_iff.2 ⟨pcm, hi⟩
        have hend : pcm.length ≤ s.idx.toNat := by
          simpa [hp, s.cfg.pcm_length pcm hi] using h
        simp only [romEntry, List.getElem?_eq_none hend]
        rfl
    simp only [exec, execCatEmit, catSample, hread]
    rfl

/-! ## Placing an operation (assumption 10) -/

theorem configFor_policy (p : Policy) (c : Config) : (configFor p c).policy = p := by
  unfold configFor
  split
  · assumption
  · cases p <;> rfl

theorem tickWord_bits : ∀ b : BitVec 3, tickWord (b.getLsbD 2) (b.getLsbD 1) (b.getLsbD 0) = b := by decide

theorem policyBit_policyOfBit (b : Bool) : policyBit (policyOfBit b) = b := by cases b <;> rfl

theorem segBit_segOfBit (b : Bool) : segBit (segOfBit b) = b := by cases b <;> rfl

/-- The index of a placed tick is the end of its region or lies below it, as the selector asks. -/
theorem atEnd_placeTick (b : BitVec 3) (s : State) : atEnd (placeTick b s) = b.getLsbD 0 := by
  have hfit := (placeTick b s).cfg.regionLen_le (placeTick b s).seg
  have hlen := (placeTick b s).cfg.two_le_regionLen (placeTick b s).seg
  have hidx : (placeTick b s).idx =
      if b.getLsbD 0 then BitVec.ofNat 24 (placeTick b s).len
      else if s.idx.toNat < (placeTick b s).len then s.idx else 0 := rfl
  cases he : b.getLsbD 0
  · rw [atEnd_eq_false_iff, hidx, he, if_neg Bool.false_ne_true]
    split
    case isTrue hlt => exact hlt
    case isFalse => exact Nat.two_pos.trans_le hlen
  · rw [atEnd_eq_true_iff, hidx, he, if_pos rfl, BitVec.toNat_ofNat]
    have hlt : (placeTick b s).len < 2 ^ 24 := Nat.lt_of_le_pred (by decide) hfit
    rw [Nat.mod_eq_of_lt hlt]

/-- Settles O59: the placed state has the selector's three bits, and a placed command is the input of the edge. -/
theorem placedOperationRunsAtTheNextEdge : Obligations.PlacedOperationRunsAtTheNextEdge := by
  unfold Obligations.PlacedOperationRunsAtTheNextEdge
  refine ⟨fun s b => ⟨rfl, ?_, rfl⟩, fun s b => ⟨rfl, hostWord_hostEnable_hostAddr b, rfl⟩,
    fun s b d => ⟨rfl, hostWord_hostEnable_hostAddr b, rfl, rfl⟩⟩
  have hpolicy : (placeTick b s).cfg.policy = policyOfBit (b.getLsbD 2) := configFor_policy _ _
  have hseg : (placeTick b s).seg = segOfBit (b.getLsbD 1) := rfl
  rw [tickSelector, hpolicy, hseg, atEnd_placeTick, policyBit_policyOfBit, segBit_segOfBit, tickWord_bits]

end Sys2Proof.Machine
